-- ==== Sys2Proof/Word.lean ====
section
/-! DEFINITION. The word types of the xchacha ARX core (00_scope.md rules R7 and R11): every value is an unsigned
integer of a stated width. Sums (`add32`, `add64`) are `BitVec` addition, which wraps and keeps no carry. -/

namespace Sys2Proof

/-- `u8`, a byte (R11). -/
abbrev Byte := BitVec 8

/-- `u32`, a word of the cipher units (R7, R11). -/
abbrev W32 := BitVec 32

/-- `u64`, a word of the hash unit (R7, R11). -/
abbrev W64 := BitVec 64

end Sys2Proof
end

