-- ==== Sys2Proof/Machine/Bytes.lean ====
section
/-! DEFINITION. The notation of 00_scope.md rules R11 and R12: rotations, sub-strings of byte strings, and the
little-endian conversions between bytes and words (20_memory.md rule R51). -/

namespace Sys2Proof.Machine

/-- `rotl32` and `rotl64`: `(x << n) | (x >> (w - n))`, rotation towards the most significant bit (R11). -/
def rotl {w : Nat} (x : BitVec w) (n : Nat) : BitVec w :=
  x <<< n ||| x >>> (w - n)

/-- The sub-string of `n` bytes of `b` that starts at byte `i`: `b[i..i+n-1]` (R12). -/
def slice (b : List Byte) (i n : Nat) : List Byte :=
  (b.drop i).take n

/-- `b[0] | b[1] << 8 | b[2] << 16 | ...` as a word of `w` bits (R12). -/
def leWord (w : Nat) : List Byte → BitVec w
  | [] => 0
  | b :: rest => b.setWidth w ||| leWord w rest <<< 8

/-- `LE32`, for a 4-byte string (R12). -/
def le32 (b : List Byte) : W32 := leWord 32 b

/-- `LE64`, for an 8-byte string (R12). -/
def le64 (b : List Byte) : W64 := leWord 64 b

/-- Byte `j` of a word: its bits `8j+7` to `8j` (R12). -/
def byteOf {w : Nat} (x : BitVec w) (j : Nat) : Byte :=
  x.extractLsb' (8 * j) 8

/-- `ST32`: the four bytes of a word, the low one first (R12). -/
def st32 (x : W32) : List Byte :=
  [byteOf x 0, byteOf x 1, byteOf x 2, byteOf x 3]

/-- `ST64`: the eight bytes of a word, the low one first (R12). -/
def st64 (x : W64) : List Byte :=
  [byteOf x 0, byteOf x 1, byteOf x 2, byteOf x 3, byteOf x 4, byteOf x 5, byteOf x 6, byteOf x 7]

/-- The `n` words `LE32(b[4i..4i+3])` of a byte string (R52). -/
def wordsOf (n : Nat) (b : List Byte) : Vector W32 n :=
  Vector.ofFn fun i => le32 (slice b (4 * i.val) 4)

/-- The words of a vector as bytes, `ST32` of each, word 0 first (R52). -/
def bytesOf {n : Nat} (x : Vector W32 n) : List Byte :=
  x.toList.flatMap st32

/-- Sixteen words as the 64 bytes of a keystream block: byte `4i+j` is byte `j` of word `i` (R23, R52). -/
def blockOf (x : Vector W32 16) : Vector Byte 64 :=
  Vector.ofFn fun k => byteOf x[k.val / 4] (k.val % 4)

/-- `0^n`, `n` zero bytes (R12). -/
def zeros (n : Nat) : List Byte := List.replicate n 0

end Sys2Proof.Machine
end

