-- ==== Sys2Proof/Config.lean ====
section
/-! DEFINITION. What an implementation of the core fixes (92_eei_decisions.md D7, D11, D20, D27): the constants and
positions the source names and does not list. The values the spec gives them stand in Machine/Params.lean
(`Sys2Proof.Machine.config`). The spec leaves no result of a command open, so there is no free value here. -/

namespace Sys2Proof

/-- The parameters a model keeps in one place. -/
structure Config where
  /-- `SIGMA[0..3]`, the four constants of the cipher state (R8). -/
  sigma : Vector W32 4
  /-- `QR_INDEX[0..31]`; entry `4q+j` is operand `j` of quarter-round `q` (R9). -/
  qrIndex : Vector (Fin 16) 32
  /-- `SIPC[0..3]`, the four constants of the hash state (R10). -/
  sipc : Vector W64 4
  /-- The word of `S` that holds the low half of the block counter (R21). -/
  counterLow : Fin 16
  /-- The word of `S` that holds the high half of the block counter (R21). -/
  counterHigh : Fin 16
  /-- `NONCE_LENGTHS`, the nonce lengths `KS.INIT` accepts (R7, D11). -/
  nonceLengths : List Nat
  /-- `MAX_CRYPT`, the most bytes one `KS.CRYPT` carries (R139, D20). -/
  maxCrypt : Nat
  deriving DecidableEq, Repr

end Sys2Proof
end

