-- ==== Sys2Proof/Machine/Params.lean ====
section
/-! DEFINITION. The values the spec gives the parameters of Config.lean (00_scope.md rules R7 to R10, 10_state.md rule
R21, 92_eei_decisions.md D27). -/

namespace Sys2Proof.Machine

/-- `SIGMA` (R8), the ASCII string "expand 32-byte k" as little-endian words. -/
def sigmaWords : Vector W32 4 :=
  #v[0x61707865, 0x3320646e, 0x79622d32, 0x6b206574]

/-- `QR_INDEX` (R9), one quarter-round a line: the first group, then the second. -/
def quarterRoundTable : Vector (Fin 16) 32 :=
  #v[0, 4, 8, 12,
     1, 5, 9, 13,
     2, 6, 10, 14,
     3, 7, 11, 15,
     0, 5, 10, 15,
     1, 6, 11, 12,
     2, 7, 8, 13,
     3, 4, 9, 14]

/-- `SIPC` (R10), the ASCII string "somepseudorandomlygeneratedbytes" as big-endian words. -/
def sipConstants : Vector W64 4 :=
  #v[0x736f6d6570736575, 0x646f72616e646f6d, 0x6c7967656e657261, 0x7465646279746573]

/-- The parameters of the xchacha ARX core. -/
def config : Config where
  sigma := sigmaWords
  qrIndex := quarterRoundTable
  sipc := sipConstants
  counterLow := 12
  counterHigh := 13
  nonceLengths := [16, 24, 32]
  maxCrypt := 255

end Sys2Proof.Machine
end

