-- ==== Sys2Proof/Machine/State.lean ====
section
/-! DEFINITION. The state of one instance of the core (10_state.md rule R20) and, beside it, the host on the other side
of the command port: the moves it will make, in issue order, and the responses it has been given. -/

namespace Sys2Proof.Machine

/-- One thing the host does to the core (70_reset_and_hazards.md rule R235). -/
inductive HostMove where
  /-- The reset event (R220). -/
  | reset
  /-- A command `(CW, DIN)` presented on the command port (30_encoding.md rule R70). -/
  | command (cw : W32) (din : List Byte)
  deriving DecidableEq, Repr

/-- A response `(ST, DOUT)`: the 8-bit status and the result payload (R72). -/
structure Response where
  st : Byte
  dout : List Byte
  deriving DecidableEq, Repr

/-- The state: the seven items R20 gives the core, the operand payload of the command being executed, and the host's
side of the port. The last three are the model's own (notes/assumptions/1.md); no command reads `host` or `answers`. -/
structure State where
  /-- CipherState, `S[0..15]` (R21). -/
  S : Vector W32 16
  /-- KeystreamBuffer data, `BUF[0..63]` (R23). -/
  BUF : Vector Byte 64
  /-- KeystreamBuffer cursor, an 8-bit register whose values a command writes are 0 to 64 (R24). -/
  CUR : Byte
  /-- Set when `S`, `BUF`, `CUR` hold a context created by `KS.INIT` (R25). -/
  KSV : Bool
  /-- SipState, `V[0..3]` (R26). -/
  V : Vector W64 4
  /-- Message bytes absorbed by the hash in progress, modulo 256 (R27). -/
  LEN : Byte
  /-- Set between `SIP.INIT` and `SIP.FINAL` (R28). -/
  SIPA : Bool
  /-- The operand payload of the command being executed; empty between commands (R50). -/
  DIN : List Byte
  /-- The moves the host will still make, the next one first (R57, R235). -/
  host : List HostMove
  /-- The responses given so far, the oldest first (R57, R72). -/
  answers : List Response
  deriving DecidableEq, Repr

/-- Why the machine stops with a fault. -/
inductive Fault where
  /-- Raised by `KS.NEXT` and `KS.CRYPT` when a byte is wanted and `CUR` is above 64: `BUF[CUR]` does not exist (R13
  allows `MemRead` inside `BUF[0..63]` only). Safe: the machine stops where the spec gives no value, and no command
  ever writes such a `CUR` (R24). -/
  | bufferIndex
  deriving DecidableEq, Repr

/-- Why the machine has no meaning for an instruction. -/
inductive Refusal where
  /-- Raised by `exec` for an instruction with no meaning yet. Safe: nothing is claimed of it. No arm raises it. -/
  | notModelled (mnemonic : String)
  deriving DecidableEq, Repr

/-- The answer of a step of this machine. -/
abbrev Outcome := Host.Outcome State Fault Refusal

/-- The machine right after reset (R34): `KSV = 0` and `SIPA = 0`. DESIGN CHOICE (notes/assumptions/2.md, unsafe): the
spec leaves `S`, `BUF`, `CUR`, `V` and `LEN` unspecified after reset, and the model names the value 0 for each.
No command is on the port and the host has no move to make. -/
def State.reset : State where
  S := Vector.replicate 16 0
  BUF := Vector.replicate 64 0
  CUR := 0
  KSV := false
  V := Vector.replicate 4 0
  LEN := 0
  SIPA := false
  DIN := []
  host := []
  answers := []

end Sys2Proof.Machine
end

