-- ==== Sys2Proof/Machine/Flags.lean ====
section
/-! DEFINITION. The core keeps no arithmetic flags (10_state.md rule R30). What it tests is here: the logical state of
the keystream generator, read off `CUR`; whether a counter increment carries; and whether each unit is set up. -/

namespace Sys2Proof.Machine

/-- FRESH: `CUR = 64`, the buffer holds nothing that may be served (R24, R130). -/
def State.fresh (s : State) : Bool := s.CUR == 64

/-- SERVING: `CUR < 64`, bytes `BUF[CUR..63]` are keystream not yet given out (R24, R130). -/
def State.serving (s : State) : Bool := s.CUR.toNat < 64

/-- The increment of the low counter word carries into the high word: the new low word is 0 (R132). -/
def counterCarry (low : W32) : Bool := low == 0

/-- Unit K holds a cipher context (R25). -/
def State.cipherReady (s : State) : Bool := s.KSV

/-- Unit S has a hash in progress (R28). -/
def State.hashReady (s : State) : Bool := s.SIPA

end Sys2Proof.Machine
end

