-- ==== Sys2Proof/Machine/Ops.lean ====
section
/-! DEFINITION. The operations every command shares: giving a response, raising an error (60_exceptions.md rules R190 to
R198), presenting a command, the reset event, and access to the keystream buffer and the block counter. -/

namespace Sys2Proof.Machine

/-- The status codes (R191). -/
inductive Status where
  | ok
  | wrongKeyLength
  | wrongNonceLength
  /-- Named by the source and raised by no command (R194). -/
  | counterOverflow
  | illegalCommand
  | noContext
  deriving DecidableEq, Repr

/-- The value of `ST` for a status (R191). -/
def Status.code : Status → Byte
  | .ok => 0x00
  | .wrongKeyLength => 0x01
  | .wrongNonceLength => 0x02
  | .counterOverflow => 0x03
  | .illegalCommand => 0x04
  | .noContext => 0x05

/-- The host is given the response `(ST, DOUT)` and the command is over, its payload with it (R72, R57). No item of R20
changes. -/
def State.respond (st : Status) (dout : List Byte) (s : State) : State :=
  { s with DIN := [], answers := s.answers ++ [⟨st.code, dout⟩] }

/-- `return (v)`: the command ends with `ST = 0x00` and `DOUT = v` (R13). -/
def answer (dout : List Byte) (s : State) : Outcome :=
  .next (s.respond .ok dout)

/-- `raise <Error>`: the command ends with the code of the error, `DOUT` empty, and the state of R20 as it was before the
command (R13, R198). There is no handler, no saved state, and nothing to return from (R190, R199). -/
def raise (e : Status) (s : State) : Outcome :=
  .next (s.respond e [])

/-- `raise <Error>` unless a check passes. -/
def require (check : Bool) (e : Status) (s : State) (rest : Outcome) : Outcome :=
  if check then rest else raise e s

/-- The command at the head of the host's moves is on the port: its payload is `DIN`, and the host's later moves remain
(R57, R70). -/
def State.present (din : List Byte) (later : List HostMove) (s : State) : State :=
  { s with DIN := din, host := later }

/-- The reset event (R220): the seven items of R20 take the values of `State.reset`. The host gets nothing back, keeps
the responses it has, and goes on with its later moves (R235). -/
def State.resetBy (later : List HostMove) (s : State) : State :=
  { State.reset with host := later, answers := s.answers }

/-- `MemRead(addr, 1)` (R13): byte `addr` of the keystream buffer; there is none at 64 or above. -/
def State.readBuffer (addr : Nat) (s : State) : Option Byte :=
  s.BUF[addr]?

/-- `CTR = S[12] | S[13] << 32` (R22). -/
def counterOf (x : Vector W32 16) : W64 :=
  x[config.counterHigh].setWidth 64 <<< 32 ||| x[config.counterLow].setWidth 64

/-- `S[12] <- low; S[13] <- high` (R137). -/
def setCounterWords (low high : W32) (x : Vector W32 16) : Vector W32 16 :=
  (x.set config.counterLow low).set config.counterHigh high

end Sys2Proof.Machine
end

