-- ==== Sys2Proof/Syntax.lean ====
section
/-! DEFINITION. The nine commands of the core (30_encoding.md rule R73), one constructor per row of
spec/opcode_table.json, each with the fields of the command word it uses (R74). The operand payload `DIN` is no part of
the command word: it stands on the command port (`State.DIN`). -/

namespace Sys2Proof

/-- A command, decoded from its command word. Length fields are the unsigned 8-bit fields `A` and `B` (R71, R78). -/
inductive Instr where
  /-- `PERM`: run the permutation on the payload (R104). -/
  | perm
  /-- `SUBKEY`: derive a subkey; `A = klen`, `B = plen` (R122). -/
  | subkey (klen plen : Byte)
  /-- `KS.INIT`: create the cipher context; `A = klen`, `B = nlen` (R136). -/
  | ksInit (klen nlen : Byte)
  /-- `KS.SETCTR`: overwrite the block counter (R137). -/
  | ksSetctr
  /-- `KS.NEXT`: return one keystream byte (R138). -/
  | ksNext
  /-- `KS.CRYPT`: XOR the payload with keystream; `A = n` (R139). -/
  | ksCrypt (n : Byte)
  /-- `SIP.INIT`: begin a hash (R166). -/
  | sipInit
  /-- `SIP.BLOCK`: absorb one 8-byte chunk (R167). -/
  | sipBlock
  /-- `SIP.FINAL`: absorb the final block and return the digest; `A = r`, whose bits 7 to 3 must be 0 (R168). -/
  | sipFinal (r : Byte)
  deriving DecidableEq, Repr

end Sys2Proof
end

