-- ==== Sys2Proof/WellFormed.lean ====
section
/-! DEFINITION. Which commands have an encoding. Every length field takes all 256 values but one: the tail length of
`SIP.FINAL` uses `A[2:0]` and `A[7:3]` must be 0 (30_encoding.md rules R74 and R75). -/

namespace Sys2Proof

/-- The fields of a command are ones a legal command word can carry (R74, R75). A length field that is wrong for the
command (a key length other than 32, say) is still well-formed: it is encodable, and the command itself answers it
with an error status (R77). -/
def Instr.wellFormed : Instr → Bool
  | .perm => true
  | .subkey _ _ => true
  | .ksInit _ _ => true
  | .ksSetctr => true
  | .ksNext => true
  | .ksCrypt _ => true
  | .sipInit => true
  | .sipBlock => true
  | .sipFinal r => r.extractLsb' 3 5 == 0#5

end Sys2Proof
end

