-- ==== Sys2Proof/Machine/Operands.lean ====
section
/-! DEFINITION. The operand payload of each command: the length its command word implies, the check of that length, and
where each operand stands in it (30_encoding.md rules R74, R76, R78; 20_memory.md rule R52). -/

namespace Sys2Proof.Machine

/-- `PL`, the payload length a command expects (R74). `A + B` is computed without wrap-around (R78). -/
def payloadLength : Instr → Nat
  | .perm => 64
  | .subkey klen plen => klen.toNat + plen.toNat
  | .ksInit klen nlen => klen.toNat + nlen.toNat
  | .ksSetctr => 8
  | .ksNext => 0
  | .ksCrypt n => n.toNat
  | .sipInit => 16
  | .sipBlock => 8
  | .sipFinal r => r.toNat

/-- `RL`, the length of `DOUT` when the command succeeds (R74). -/
def resultLength : Instr → Nat
  | .perm => 64
  | .subkey _ _ => 32
  | .ksInit _ _ => 0
  | .ksSetctr => 0
  | .ksNext => 1
  | .ksCrypt n => n.toNat
  | .sipInit => 0
  | .sipBlock => 0
  | .sipFinal _ => 8

/-- The command's fields are legal and its payload has the length they imply; otherwise `IllegalCommand`, before any
other check (R75, R76, R77, R197). -/
def withPayload (i : Instr) (s : State) (rest : Outcome) : Outcome :=
  require (i.wellFormed && s.DIN.length == payloadLength i) .illegalCommand s rest

/-- The key bytes of `SUBKEY` and `KS.INIT`, `DIN[0..31]` (R122, R136). -/
def State.keyBytes (s : State) : List Byte := slice s.DIN 0 32

/-- The `n` bytes after the key: the prefix of `SUBKEY` or the nonce of `KS.INIT` (R122, R136). -/
def State.afterKey (n : Nat) (s : State) : List Byte := slice s.DIN 32 n

end Sys2Proof.Machine
end

