-- ==== Sys2Proof/Machine/Permutation.lean ====
section
/-! DEFINITION. Unit P, the permutation engine (40_permutation.md rules R100 to R105), and the command `PERM`. -/

namespace Sys2Proof.Machine

/-- One line of the quarter-round: `x[a] <- add32(x[a], x[b])`, then `x[d] <- rotl32(x[d] ^ x[a], n)` (R100). -/
def mix (a b d : Fin 16) (n : Nat) (x : Vector W32 16) : Vector W32 16 :=
  let y := x.set a (x[a] + x[b])
  y.set d (rotl (y[d] ^^^ y[a]) n)

/-- `QuarterRound(x, a, b, c, d)` (R100), for four different indices. -/
def quarterRound (a b c d : Fin 16) (x : Vector W32 16) : Vector W32 16 :=
  mix c d b 7 (mix a b d 8 (mix c d b 12 (mix a b d 16 x)))

/-- The quarter-rounds of an index table in table order, four entries each (R9, R101). -/
def quarterRounds : List (Fin 16) → Vector W32 16 → Vector W32 16
  | a :: b :: c :: d :: rest, x => quarterRounds rest (quarterRound a b c d x)
  | _, x => x

/-- One iteration: the 8 quarter-rounds of `QR_INDEX` in the order 0 to 7 (R101). -/
def iteration (x : Vector W32 16) : Vector W32 16 :=
  quarterRounds config.qrIndex.toList x

/-- `Permute20(x)`: 10 iterations, which are 20 rounds (R101, R105). -/
@[irreducible] def permute20 (x : Vector W32 16) : Vector W32 16 :=
  iteration^[10] x

/-- `PERM` (R104). -/
def execPerm (s : State) : Outcome :=
  withPayload .perm s <|
    answer (bytesOf (permute20 (wordsOf 16 s.DIN))) s

end Sys2Proof.Machine
end

