-- ==== Sys2Proof/Machine/Subkey.lean ====
section
/-! DEFINITION. Unit H, the subkey derivation unit (41_subkey.md rules R120 to R123), and the command `SUBKEY`. -/

namespace Sys2Proof.Machine

/-- The layout of 16 words: 4 constants in words 0 to 3, 8 key words in words 4 to 11, 4 words in the last quadrant
(R21, R120). -/
@[irreducible] def layout (constants : Vector W32 4) (key : Vector W32 8) (last : Vector W32 4) : Vector W32 16 :=
  constants ++ key ++ last

/-- `SubkeySeed(key, prefix)` (R120). -/
def subkeySeed (key pre : List Byte) : Vector W32 16 :=
  layout config.sigma (wordsOf 8 key) (wordsOf 4 pre)

/-- The first 4 and the last 4 words of 16 (R121). -/
def outerWords (y : Vector W32 16) : Vector W32 8 :=
  #v[y[0], y[1], y[2], y[3], y[12], y[13], y[14], y[15]]

/-- `Subkey(key, prefix)` (R121), 32 bytes. There is no add-back. -/
@[irreducible] def subkey (key pre : List Byte) : List Byte :=
  bytesOf (outerWords (permute20 (subkeySeed key pre)))

/-- `SUBKEY` (R122). -/
def execSubkey (klen plen : Byte) (s : State) : Outcome :=
  withPayload (.subkey klen plen) s <|
    require (klen == 32) .wrongKeyLength s <|
      require (plen == 16) .wrongNonceLength s <|
        answer (subkey s.keyBytes (s.afterKey 16)) s

end Sys2Proof.Machine
end

