-- ==== Sys2Proof/Machine/Keystream.lean ====
section
/-! DEFINITION. Unit K, the keystream generator, and the XOR data path (42_keystream.md rules R130 to R142): the commands
`KS.INIT`, `KS.SETCTR`, `KS.NEXT`, `KS.CRYPT`. -/

namespace Sys2Proof.Machine

/-- `add32` of two vectors word by word (R131). -/
def addWords (x y : Vector W32 16) : Vector W32 16 :=
  Vector.zipWith (· + ·) x y

/-- The 64-byte block made from a cipher state: a working copy is permuted, the snapshot is added back, and the 16 words
are serialized (R131). -/
@[irreducible] def keystreamBlock (x : Vector W32 16) : Vector Byte 64 :=
  blockOf (addWords (permute20 x) x)

/-- `IncrementCounter()` (R132): wraps silently, and carries into the high word whatever that was loaded from. -/
@[irreducible] def incrementCounter (x : Vector W32 16) : Vector W32 16 :=
  let low := x[config.counterLow] + 1
  let high := x[config.counterHigh]
  setCounterWords low (if counterCarry low then high + 1 else high) x

/-- `Refill()` (R131): all 64 bytes of the buffer are written with the block made from `S` before the increment. -/
def State.refill (s : State) : State :=
  { s with BUF := keystreamBlock s.S, S := incrementCounter s.S, CUR := 0 }

/-- The state a byte is served from: a refill comes first if the generator is FRESH, and only then (R133). -/
def State.materialize (s : State) : State :=
  if s.fresh then s.refill else s

/-- `CUR <- CUR + 1` (R133). -/
def State.advance (s : State) : State :=
  { s with CUR := s.CUR + 1 }

/-- `NextByte()` (R133): the byte and the state after it. There is none only where `CUR` is above 64. -/
def State.nextByte (s : State) : Option (Byte × State) :=
  match s.materialize.readBuffer s.materialize.CUR.toNat with
  | some b => some (b, s.materialize.advance)
  | none => none

/-- `out[i] <- data[i] ^ NextByte()` for each byte of the data in order, and the state after it (R139). -/
def xorStream : List Byte → State → Option (List Byte × State)
  | [], s => some ([], s)
  | d :: data, s =>
    match s.nextByte with
    | none => none
    | some (k, s1) =>
      match xorStream data s1 with
      | none => none
      | some (out, s2) => some ((d ^^^ k) :: out, s2)

/-- `Tail(nonce, nlen)` (R135): the nonce bytes after the first 16, at the end of 16 bytes, zeros before them. -/
def tail (nonce : List Byte) (nlen : Nat) : List Byte :=
  zeros (16 - (nlen - 16)) ++ slice nonce 16 (nlen - 16)

/-- `KeySetup(dk, T)` (R134): `BUF` keeps its bytes. -/
def State.keySetup (dk : Vector W32 8) (t : List Byte) (s : State) : State :=
  { s with S := layout config.sigma dk (wordsOf 4 t), CUR := 64, KSV := true }

/-- The context `KS.INIT` creates from a key and a nonce (R136). -/
def State.initStream (key nonce : List Byte) (nlen : Nat) (s : State) : State :=
  s.keySetup (wordsOf 8 (subkey key (slice nonce 0 16))) (tail nonce nlen)

/-- The counter words overwritten from 8 bytes; `CUR` and `BUF` keep their values (R137). -/
def State.setCounter (counter : List Byte) (s : State) : State :=
  { s with S := setCounterWords (le32 (slice counter 0 4)) (le32 (slice counter 4 4)) s.S }

/-- `return (DOUT)` of a byte source, or a stop where `BUF[CUR]` does not exist. -/
def answerStream : Option (List Byte × State) → Outcome
  | some (out, t) => answer out t
  | none => .fault .bufferIndex

/-- `KS.INIT` (R136). -/
def execKsInit (klen nlen : Byte) (s : State) : Outcome :=
  withPayload (.ksInit klen nlen) s <|
    require (klen == 32) .wrongKeyLength s <|
      require (config.nonceLengths.contains nlen.toNat) .wrongNonceLength s <|
        answer [] (s.initStream s.keyBytes (s.afterKey nlen.toNat) nlen.toNat)

/-- `KS.SETCTR` (R137). -/
def execKsSetctr (s : State) : Outcome :=
  withPayload .ksSetctr s <|
    require s.cipherReady .noContext s <|
      answer [] (s.setCounter s.DIN)

/-- `KS.NEXT` (R138). -/
def execKsNext (s : State) : Outcome :=
  withPayload .ksNext s <|
    require s.cipherReady .noContext s <|
      answerStream (s.nextByte.map fun p => ([p.1], p.2))

/-- `KS.CRYPT` (R139). -/
def execKsCrypt (n : Byte) (s : State) : Outcome :=
  withPayload (.ksCrypt n) s <|
    require s.cipherReady .noContext s <|
      answerStream (xorStream s.DIN s)

end Sys2Proof.Machine
end

