-- ==== Sys2Proof/Machine/Siphash.lean ====
section
/-! DEFINITION. Unit S, the SipHash-2-4 core (43_siphash.md rules R160 to R171): the commands `SIP.INIT`, `SIP.BLOCK`,
`SIP.FINAL`. -/

namespace Sys2Proof.Machine

/-- `HalfRound(a, b, c, d, r1, r2)` (R160), each statement on the words the statements before it left. -/
def halfRound (a b c d : Fin 4) (r1 r2 : Nat) (v0 : Vector W64 4) : Vector W64 4 :=
  let v1 := v0.set a (v0[a] + v0[b])
  let v2 := v1.set c (v1[c] + v1[d])
  let v3 := v2.set b (rotl v2[b] r1 ^^^ v2[a])
  let v4 := v3.set d (rotl v3[d] r2 ^^^ v3[c])
  v4.set a (rotl v4[a] 32)

/-- `SipRound()` (R161). -/
def sipRound (v : Vector W64 4) : Vector W64 4 :=
  halfRound 2 1 0 3 17 21 (halfRound 0 1 2 3 13 16 v)

/-- `SipInit(key)` (R162). -/
def sipSeed (key : List Byte) : Vector W64 4 :=
  let k0 := le64 (slice key 0 8)
  let k1 := le64 (slice key 8 8)
  #v[k0 ^^^ config.sipc[0], k1 ^^^ config.sipc[1], k0 ^^^ config.sipc[2], k1 ^^^ config.sipc[3]]

/-- `V[i] <- V[i] ^ m`. -/
def xorInto (i : Fin 4) (m : W64) (v : Vector W64 4) : Vector W64 4 :=
  v.set i (v[i] ^^^ m)

/-- `SipAbsorb(m)` (R163): the word enters word 3, two rounds, the word is folded into word 0. -/
@[irreducible] def sipAbsorb (m : W64) (v : Vector W64 4) : Vector W64 4 :=
  xorInto 0 m (sipRound^[2] (xorInto 3 m v))

/-- `FinalWord(tail, r, L)` (R164): the tail in the low bytes, the length in the top byte. -/
def finalWord (rest : List Byte) (len : Byte) : W64 :=
  len.setWidth 64 <<< 56 ||| leWord 64 rest

/-- The state `SipFinish()` leaves (R165). -/
@[irreducible] def sipFinish (v : Vector W64 4) : Vector W64 4 :=
  sipRound^[4] (xorInto 2 0xff v)

/-- The output of `SipFinish()`: the exclusive or of the four words it leaves (R165). -/
def sipDigest (v : Vector W64 4) : W64 :=
  v[0] ^^^ v[1] ^^^ v[2] ^^^ v[3]

/-- Unit S with a hash of no bytes in progress under a key (R166). -/
def State.beginHash (key : List Byte) (s : State) : State :=
  { s with V := sipSeed key, LEN := 0, SIPA := true }

/-- Unit S after one 8-byte chunk (R167). -/
def State.absorbChunk (m : List Byte) (s : State) : State :=
  { s with V := sipAbsorb (le64 m) s.V, LEN := s.LEN + 8 }

/-- Unit S after the final block of `r` tail bytes and the finalization; `LEN` keeps its value (R168). -/
def State.endHash (rest : List Byte) (r : Byte) (s : State) : State :=
  { s with V := sipFinish (sipAbsorb (finalWord rest (s.LEN + r)) s.V), SIPA := false }

/-- `SIP.INIT` (R166). -/
def execSipInit (s : State) : Outcome :=
  withPayload .sipInit s <|
    answer [] (s.beginHash s.DIN)

/-- `SIP.BLOCK` (R167). -/
def execSipBlock (s : State) : Outcome :=
  withPayload .sipBlock s <|
    require s.hashReady .noContext s <|
      answer [] (s.absorbChunk s.DIN)

/-- `SIP.FINAL` (R168). -/
def execSipFinal (r : Byte) (s : State) : Outcome :=
  withPayload (.sipFinal r) s <|
    require s.hashReady .noContext s <|
      answer (st64 (sipDigest (s.endHash s.DIN r).V)) (s.endHash s.DIN r)

/-- The full 8-byte chunks of a message, in order (R169). -/
def fullChunks (input : List Byte) : List (List Byte) :=
  (List.range (input.length / 8)).map fun i => slice input (8 * i) 8

/-- The bytes of a message after its full chunks (R169). -/
def lastBytes (input : List Byte) : List Byte :=
  input.drop (8 * (input.length / 8))

/-- `SipHash24(input, key)` as one function (R169). -/
def sipHash24 (input key : List Byte) : W64 :=
  let absorbed := (fullChunks input).foldl (fun v m => sipAbsorb (le64 m) v) (sipSeed key)
  sipDigest (sipFinish (sipAbsorb (finalWord (lastBytes input) (BitVec.ofNat 8 input.length)) absorbed))

end Sys2Proof.Machine
end

