-- ==== Sys2Proof/Machine/Dispatch.lean ====
section
/-! DEFINITION. The meaning of every command of spec/opcode_table.json, one arm each. -/

namespace Sys2Proof.Machine

def exec (i : Instr) (s : State) : Host.Outcome State Fault Refusal :=
  match i with
  | .perm => Sys2Proof.Machine.execPerm s
  | .subkey klen plen => Sys2Proof.Machine.execSubkey klen plen s
  | .ksInit klen nlen => Sys2Proof.Machine.execKsInit klen nlen s
  | .ksSetctr => Sys2Proof.Machine.execKsSetctr s
  | .ksNext => Sys2Proof.Machine.execKsNext s
  | .ksCrypt n => Sys2Proof.Machine.execKsCrypt n s
  | .sipInit => Sys2Proof.Machine.execSipInit s
  | .sipBlock => Sys2Proof.Machine.execSipBlock s
  | .sipFinal r => Sys2Proof.Machine.execSipFinal r s

end Sys2Proof.Machine
end

