-- ==== Sys2Proof/Decode.lean ====
section
/-! DEFINITION. Decoding a 32-bit command word (30_encoding.md rules R70 to R77) and, after it, the encoder. Decoding is
total: every word is one of the nine commands or is rejected by name. -/

namespace Sys2Proof

/-- Why a command word is illegal (R75). -/
inductive Reject where
  /-- `Z`, bits 31 to 24, is not 0. -/
  | reservedField (z : Byte)
  /-- `OP` is none of the nine opcodes of R73. -/
  | unknownOpcode (op : Byte)
  /-- A field of `A` or `B` that R74 marks "must be 0" is not 0. -/
  | mustBeZero (op : Byte)
  deriving DecidableEq, Repr

/-- `OP = CW[7:0]` (R71). -/
def CW.op (cw : W32) : Byte := cw.extractLsb' 0 8

/-- `A = CW[15:8]` (R71). -/
def CW.a (cw : W32) : Byte := cw.extractLsb' 8 8

/-- `B = CW[23:16]` (R71). -/
def CW.b (cw : W32) : Byte := cw.extractLsb' 16 8

/-- `Z = CW[31:24]` (R71). -/
def CW.z (cw : W32) : Byte := cw.extractLsb' 24 8

/-- The command an opcode and its two operand fields name, before the "must be 0" fields are tested: the opcode, and
the fields of `A` and `B` it does not use (R73, R74). -/
def selectOpcode (op a b : Byte) : Option (Instr × Bool) :=
  match op.toNat with
  | 0x01 => some (.perm, a == 0 && b == 0)
  | 0x02 => some (.subkey a b, true)
  | 0x10 => some (.ksInit a b, true)
  | 0x11 => some (.ksSetctr, a == 0 && b == 0)
  | 0x12 => some (.ksNext, a == 0 && b == 0)
  | 0x13 => some (.ksCrypt a, b == 0)
  | 0x20 => some (.sipInit, a == 0 && b == 0)
  | 0x21 => some (.sipBlock, a == 0 && b == 0)
  | 0x22 => some (.sipFinal a, a.extractLsb' 3 5 == 0 && b == 0)
  | _ => none

/-- Decodes a command word (R75): `Z` first, then `OP`, then the "must be 0" fields. All three rejections end the
command in the same way, so their order is not observable. -/
def decode (cw : W32) : Except Reject Instr :=
  if CW.z cw ≠ 0 then
    .error (.reservedField (CW.z cw))
  else
    match selectOpcode (CW.op cw) (CW.a cw) (CW.b cw) with
    | none => .error (.unknownOpcode (CW.op cw))
    | some (i, true) => .ok i
    | some (_, false) => .error (.mustBeZero (CW.op cw))

/-- The command word of an opcode-table row whose low `nbits` bits are `w`, every bit above them 0. The core has one
command length, 32 bits (R70). -/
def tableWord (nbits w : Nat) : W32 :=
  BitVec.ofNat 32 (w % 2 ^ nbits)

/-- What the decoder reads from an instruction of the opcode table; none where it rejects the word. -/
def decodeTableWord (nbits w : Nat) : Option Instr :=
  match decode (tableWord nbits w) with
  | .ok i => some i
  | .error _ => none

/-- `CW = OP | A << 8 | B << 16 | Z << 24` with `Z = 0` (R71). -/
def packWord (op a b : Byte) : W32 :=
  op.setWidth 32 ||| a.setWidth 32 <<< 8 ||| b.setWidth 32 <<< 16

/-- The command word of a command (R73, R74, R81). -/
def encode : Instr → W32
  | .perm => packWord 0x01 0 0
  | .subkey klen plen => packWord 0x02 klen plen
  | .ksInit klen nlen => packWord 0x10 klen nlen
  | .ksSetctr => packWord 0x11 0 0
  | .ksNext => packWord 0x12 0 0
  | .ksCrypt n => packWord 0x13 n 0
  | .sipInit => packWord 0x20 0 0
  | .sipBlock => packWord 0x21 0 0
  | .sipFinal r => packWord 0x22 r 0

end Sys2Proof
end

