-- ==== Sys2Proof/Machine/Fetch.lean ====
section
/-! DEFINITION. What the core does next: the core fetches nothing (10_state.md rule R29), so the next thing it does is the
host's next move (20_memory.md rule R57, 70_reset_and_hazards.md rule R235). -/

namespace Sys2Proof.Machine

/-- The host's next move as the core meets it. -/
inductive Fetched where
  /-- The host makes no move: the core waits (R220). -/
  | idle
  /-- The reset event, with the state it leaves (R220). -/
  | reset (t : State)
  /-- A legal command word, with its payload on the port (R77). -/
  | run (i : Instr) (t : State)
  /-- An illegal command word, its payload ignored (R75). -/
  | illegal (t : State)
  deriving DecidableEq, Repr

/-- Takes the host's next move (R57) and decodes the command word, which is the first check of R77. -/
def fetch (s : State) : Fetched :=
  match s.host with
  | [] => .idle
  | .reset :: later => .reset (s.resetBy later)
  | .command cw din :: later =>
    match decode cw with
    | .ok i => .run i (s.present din later)
    | .error _ => .illegal (s.present din later)

/-- The payload of zero bytes a command word implies; empty for an illegal word, whose payload is ignored (R74, R75). -/
def zeroPayload (cw : W32) : List Byte :=
  match decode cw with
  | .ok i => zeros (payloadLength i)
  | .error _ => []

/-- The host's next move becomes a command with this word and a payload of zeros; its other moves come after it. -/
def State.queueWord (cw : W32) (s : State) : State :=
  { s with host := .command cw (zeroPayload cw) :: s.host }

end Sys2Proof.Machine
end

