-- ==== Sys2Proof/Machine/Step.lean ====
section
/-! DEFINITION. One step: the host makes its next move and the core completes it (00_scope.md rule R5, 30_encoding.md rule
R77). -/

namespace Sys2Proof.Machine

/-- One move of the host, completed by the core: a command is one atomic transition of the state, answered with one
response (R5, R54); an illegal command word ends with `IllegalCommand` (R75); with no move to make, the core waits (R220). -/
def step (s : State) : Host.Outcome State Fault Refusal :=
  match fetch s with
  | .idle => .next s
  | .reset t => .next t
  | .run i t => exec i t
  | .illegal t => raise .illegalCommand t

/-- The state whose next step runs the instruction of the table word `w`: the host's next move is that command word with
the payload of zeros it implies. Nothing else changes. -/
def State.withFetchWord (s : State) (nbits w : Nat) : State :=
  s.queueWord (tableWord nbits w)

end Sys2Proof.Machine
end

