-- ==== Sys2Proof/Machine/Library.lean ====
section
/-! DEFINITION. The host's side as the spec writes it: the textual form of a command (30_encoding.md rules R80 and R81)
and the seven pseudo-commands of the library surface, each with its expansion into commands and its result (R82 to
R88). Nothing here is part of the core: `exec` and `step` do not use it. -/

namespace Sys2Proof.Machine

/-- A command with its operands named, as the assembler syntax writes it (R81). -/
inductive AsmLine where
  | perm (x : List Byte)
  | subkey (key pre : List Byte)
  | ksInit (key nonce : List Byte)
  | ksSetctr (counter : List Byte)
  | ksNext
  | ksCrypt (data : List Byte)
  | sipInit (key : List Byte)
  | sipBlock (m : List Byte)
  | sipFinal (rest : List Byte)
  deriving DecidableEq, Repr

/-- The operands of a line in the order written: their concatenation is `DIN` (R80). -/
def AsmLine.operands : AsmLine → List (List Byte)
  | .perm x => [x]
  | .subkey key pre => [key, pre]
  | .ksInit key nonce => [key, nonce]
  | .ksSetctr counter => [counter]
  | .ksNext => []
  | .ksCrypt data => [data]
  | .sipInit key => [key]
  | .sipBlock m => [m]
  | .sipFinal rest => [rest]

/-- An operand's length as an 8-bit field of the command word (R71, R80). -/
def lengthField (b : List Byte) : Byte := BitVec.ofNat 8 b.length

/-- The command of a line: `OP` from the mnemonic, `A` and `B` from the operand lengths (R80). -/
def AsmLine.instr : AsmLine → Instr
  | .perm _ => .perm
  | .subkey key pre => .subkey (lengthField key) (lengthField pre)
  | .ksInit key nonce => .ksInit (lengthField key) (lengthField nonce)
  | .ksSetctr _ => .ksSetctr
  | .ksNext => .ksNext
  | .ksCrypt data => .ksCrypt (lengthField data)
  | .sipInit _ => .sipInit
  | .sipBlock _ => .sipBlock
  | .sipFinal rest => .sipFinal (lengthField rest)

/-- The host presents a command with a payload (R70). -/
def issue (i : Instr) (din : List Byte) : HostMove :=
  .command (encode i) din

/-- The command a line assembles to (R80, R81); none where an operand is longer than its 8-bit length field can say. -/
def assemble (line : AsmLine) : Option HostMove :=
  if line.operands.all (fun b => b.length < 256) then
    some (issue line.instr line.operands.flatten)
  else
    none

/-- A hexadecimal digit (R80). -/
def hexDigit (c : Char) : Option Nat :=
  if '0' ≤ c ∧ c ≤ '9' then some (c.toNat - '0'.toNat)
  else if 'a' ≤ c ∧ c ≤ 'f' then some (c.toNat - 'a'.toNat + 10)
  else if 'A' ≤ c ∧ c ≤ 'F' then some (c.toNat - 'A'.toNat + 10)
  else none

/-- Two hexadecimal digits a byte, byte 0 first, high nibble first (R80). -/
def parsePairs : List Char → Option (List Byte)
  | [] => some []
  | [_] => none
  | hi :: lo :: rest =>
    match hexDigit hi, hexDigit lo, parsePairs rest with
    | some h, some l, some bytes => some (BitVec.ofNat 8 (16 * h + l) :: bytes)
    | _, _, _ => none

/-- A hexadecimal operand; the empty string is written `-` (R80). -/
def parseHex (cs : List Char) : Option (List Byte) :=
  if cs = ['-'] then some [] else if cs = [] then none else parsePairs cs

/-- The operand `name=hex` (R80). -/
def parseOperand (name cs : List Char) : Option (List Byte) :=
  if (name ++ ['=']).isPrefixOf cs then parseHex (cs.drop (name.length + 1)) else none

/-- The words of a line, which blanks and commas separate. -/
def words (cs : List Char) : List (List Char) :=
  (cs.splitOnP fun c => c == ' ' || c == ',').filter (· ≠ [])

/-- The expected response that may end a line, `-> ST=xx DOUT=hex` (R80). -/
def parseResponse : List (List Char) → Option (Option Response)
  | [] => some none
  | [arrow, st, dout] =>
    match parseOperand ['S', 'T'] st, parseOperand ['D', 'O', 'U', 'T'] dout with
    | some [b], some out => if arrow = ['-', '>'] then some (some ⟨b, out⟩) else none
    | _, _ => none
  | _ => none

/-- A line with the response it expects. -/
def withResponse (line : Option AsmLine) (rest : List (List Char)) : Option (AsmLine × Option Response) :=
  match line, parseResponse rest with
  | some l, some r => some (l, r)
  | _, _ => none

/-- A mnemonic with one operand of this name. -/
def oneOperand (f : List Byte → AsmLine) (name : List Char) :
    List (List Char) → Option (AsmLine × Option Response)
  | x :: rest => withResponse ((parseOperand name x).map f) rest
  | [] => none

/-- A mnemonic with two operands of these names. -/
def twoOperands (f : List Byte → List Byte → AsmLine) (name1 name2 : List Char) :
    List (List Char) → Option (AsmLine × Option Response)
  | x :: y :: rest =>
    match parseOperand name1 x, parseOperand name2 y with
    | some a, some b => withResponse (some (f a b)) rest
    | _, _ => none
  | _ => none

/-- Reads the text of a command (R80, R81). -/
def parseLine (cs : List Char) : Option (AsmLine × Option Response) :=
  match words cs with
  | [] => none
  | mnemonic :: rest =>
    if mnemonic = ['P', 'E', 'R', 'M'] then oneOperand .perm ['x'] rest
    else if mnemonic = ['S', 'U', 'B', 'K', 'E', 'Y'] then
      twoOperands .subkey ['k', 'e', 'y'] ['p', 'r', 'e', 'f', 'i', 'x'] rest
    else if mnemonic = ['K', 'S', '.', 'I', 'N', 'I', 'T'] then
      twoOperands .ksInit ['k', 'e', 'y'] ['n', 'o', 'n', 'c', 'e'] rest
    else if mnemonic = ['K', 'S', '.', 'S', 'E', 'T', 'C', 'T', 'R'] then
      oneOperand .ksSetctr ['c', 'o', 'u', 'n', 't', 'e', 'r'] rest
    else if mnemonic = ['K', 'S', '.', 'N', 'E', 'X', 'T'] then withResponse (some .ksNext) rest
    else if mnemonic = ['K', 'S', '.', 'C', 'R', 'Y', 'P', 'T'] then oneOperand .ksCrypt ['d', 'a', 't', 'a'] rest
    else if mnemonic = ['S', 'I', 'P', '.', 'I', 'N', 'I', 'T'] then oneOperand .sipInit ['k', 'e', 'y'] rest
    else if mnemonic = ['S', 'I', 'P', '.', 'B', 'L', 'O', 'C', 'K'] then oneOperand .sipBlock ['m'] rest
    else if mnemonic = ['S', 'I', 'P', '.', 'F', 'I', 'N', 'A', 'L'] then
      oneOperand .sipFinal ['t', 'a', 'i', 'l'] rest
    else none

/-- `deriveSubkey(key, noncePrefix)`; the result is `DOUT` (R82). -/
def deriveSubkeyMoves (key pre : List Byte) : List HostMove :=
  [issue (AsmLine.subkey key pre).instr (key ++ pre)]

/-- `initStream(key, nonce)`; the CipherState is the instance's own state (R83). -/
def initStreamMoves (key nonce : List Byte) : List HostMove :=
  [issue (AsmLine.ksInit key nonce).instr (key ++ nonce)]

/-- `setCounter(state, counter)` (R84). -/
def setCounterMoves (counter : List Byte) : List HostMove :=
  [issue .ksSetctr counter]

/-- `setCounter` with the counter given as a number (R84). -/
def setCounterNumberMoves (n : W64) : List HostMove :=
  setCounterMoves (st64 n)

/-- `nextByte(state)`; the result is `DOUT[0]` (R85). -/
def nextByteMoves : List HostMove :=
  [issue .ksNext []]

/-- Consecutive pieces of at most `k` bytes, in order (R86). -/
def pieces (k : Nat) (input : List Byte) : List (List Byte) :=
  (List.range ((input.length + (k - 1)) / k)).map fun i => slice input (k * i) k

/-- `encrypt(state, input)`: `ceil(n / 255)` commands `KS.CRYPT` (R86). -/
def encryptMoves (input : List Byte) : List HostMove :=
  (pieces config.maxCrypt input).map fun data => issue (.ksCrypt (lengthField data)) data

/-- `decrypt(state, input)` has the same expansion (R87). -/
def decryptMoves (input : List Byte) : List HostMove :=
  encryptMoves input

/-- `siphash24(input, key)` (R88). -/
def siphash24Moves (input key : List Byte) : List HostMove :=
  issue .sipInit key ::
    (fullChunks input).map (fun m => issue .sipBlock m) ++
      [issue (.sipFinal (lengthField (lastBytes input))) (lastBytes input)]

/-- The output of a pseudo-command whose result is the `DOUT` of its commands, concatenated (R82, R85 to R87). -/
def joinedResult (rs : List Response) : List Byte :=
  rs.flatMap (·.dout)

/-- The output of `siphash24`: `LE64(DOUT)` of the `SIP.FINAL` (R88). -/
def hashResult (rs : List Response) : Option W64 :=
  rs.getLast?.map fun r => le64 r.dout

end Sys2Proof.Machine
end

