-- ==== Sys2Proof/Safety.lean ====
section
/-! DEFINITION. What claims about the core are stated in: which items two states share, the invariant of 10_state.md rule
R35, the position in the stream, what the host can observe, and the keystream as a function of the state. -/

namespace Sys2Proof.Machine

/-- A step of the machine goes on. -/
def SafeStep (s : State) : Prop :=
  ∃ t, step s = .next t

/-- Two states have the same unit K items: `S`, `BUF`, `CUR`, `KSV` (R20). -/
abbrev SameCipher (s t : State) : Prop :=
  s.S = t.S ∧ s.BUF = t.BUF ∧ s.CUR = t.CUR ∧ s.KSV = t.KSV

/-- Two states have the same unit S items: `V`, `LEN`, `SIPA` (R20). -/
abbrev SameHash (s t : State) : Prop :=
  s.V = t.V ∧ s.LEN = t.LEN ∧ s.SIPA = t.SIPA

/-- Two states have the same seven items of R20. -/
abbrev SameCore (s t : State) : Prop :=
  SameCipher s t ∧ SameHash s t

/-- `t` is `s` after a command that ended with this response: one response more, the payload gone, the host's later
moves as they were (R57, R72). -/
abbrev Answered (s t : State) (r : Response) : Prop :=
  t.answers = s.answers ++ [r] ∧ t.DIN = [] ∧ t.host = s.host

/-- The response of a command that succeeds (R72, R191). -/
abbrev okResponse (dout : List Byte) : Response := ⟨0x00, dout⟩

/-- The response of a command that ends with an error: its code and no bytes (R72, R191). -/
abbrev errorResponse (st : Byte) : Response := ⟨st, []⟩

/-- The cipher state `x` with the 64-bit counter `c` in its counter words (R22). -/
def withCounter (c : W64) (x : Vector W32 16) : Vector W32 16 :=
  setCounterWords (c.setWidth 32) ((c >>> 32).setWidth 32) x

/-- The invariant of R35 (a), (b) and (d): while a context exists, the cursor is at most 64, words 0 to 3 are the
constants, and a buffer that is being served is the block of the same state at some counter value. -/
def Inv (s : State) : Prop :=
  s.KSV = true →
    s.CUR.toNat ≤ 64 ∧
    (∀ i : Fin 4, s.S[i.val] = config.sigma[i]) ∧
    (s.CUR.toNat < 64 → ∃ c, s.BUF = keystreamBlock (withCounter c s.S))

/-- `x` and `y` agree outside the counter words 12 and 13. -/
abbrev SameButCounter (x y : Vector W32 16) : Prop :=
  ∀ j : Fin 16, j ≠ 12 → j ≠ 13 → x[j] = y[j]

/-- `n` keystream bytes taken one after another by `NextByte`, and the state after them (R133). -/
def takeBytes : Nat → State → Option (List Byte × State)
  | 0, s => some ([], s)
  | n + 1, s =>
    match s.nextByte with
    | none => none
    | some (b, s1) =>
      match takeBytes n s1 with
      | none => none
      | some (bs, s2) => some (b :: bs, s2)

/-- The number of refills `KS.CRYPT` of `n` bytes makes from `CUR = c` (R139). -/
def refillCount (n c : Nat) : Nat :=
  if n > 64 - c then (n - (64 - c) + 63) / 64 else 0

/-- The counter value one before the one in the counter words, modulo 2^64: `add64(CTR, 2^64 - 1)` (R227). -/
def counterBefore (s : State) : W64 :=
  counterOf s.S + 0xffffffffffffffff

/-- While the generator is SERVING, the buffer is the block at the counter value one before `CTR` (R22, R227). A
`KS.SETCTR` in mid-block ends this (R35). -/
def CounterAhead (s : State) : Prop :=
  s.CUR.toNat < 64 → s.BUF = keystreamBlock (withCounter (counterBefore s) s.S)

/-- The counter a host records to come back to the position of `s` (R227). -/
def recordedCounter (s : State) : W64 :=
  if s.CUR.toNat < 64 then counterBefore s else counterOf s.S

/-- The number of bytes a host discards to come back to the position of `s` (R227). -/
def recordedOffset (s : State) : Nat :=
  if s.CUR.toNat < 64 then s.CUR.toNat else 0

/-- Two states the host cannot tell apart by any further commands: the same port, the same flags, and the same value of
every item a command can still observe (R25, R28, R34). `BUF` is observable while the generator is SERVING only. -/
def Indistinguishable (s t : State) : Prop :=
  s.DIN = t.DIN ∧ s.host = t.host ∧ s.answers = t.answers ∧ s.KSV = t.KSV ∧ s.SIPA = t.SIPA ∧
  (s.KSV = true → s.S = t.S ∧ s.CUR = t.CUR ∧ (s.CUR.toNat < 64 → s.BUF = t.BUF)) ∧
  (s.SIPA = true → s.V = t.V ∧ s.LEN = t.LEN)

/-- Two outcomes of the same kind, with related states or the same reason. -/
def OutcomesRelate (R : State → State → Prop) : Outcome → Outcome → Prop
  | .next s, .next t => R s t
  | .fault f, .fault g => f = g
  | .refused f, .refused g => f = g
  | _, _ => False

/-- The command words R75 calls illegal: `Z` is not 0, or `OP` is none of the nine opcodes, or a field marked "must be 0"
is not 0. -/
def IllegalWord (cw : W32) : Prop :=
  CW.z cw ≠ 0 ∨
  CW.op cw ∉ [0x01, 0x02, 0x10, 0x11, 0x12, 0x13, 0x20, 0x21, 0x22] ∨
  (CW.op cw ∈ [0x01, 0x11, 0x12, 0x20, 0x21] ∧ (CW.a cw ≠ 0 ∨ CW.b cw ≠ 0)) ∨
  (CW.op cw = 0x13 ∧ CW.b cw ≠ 0) ∨
  (CW.op cw = 0x22 ∧ (8 ≤ (CW.a cw).toNat ∨ CW.b cw ≠ 0))

/-- The commands of unit K, which use the cipher context (R33). -/
def usesCipher : Instr → Bool
  | .ksInit _ _ => true
  | .ksSetctr => true
  | .ksNext => true
  | .ksCrypt _ => true
  | .perm => false
  | .subkey _ _ => false
  | .sipInit => false
  | .sipBlock => false
  | .sipFinal _ => false

/-- The commands of unit S, which use the hash state (R33). -/
def usesHash : Instr → Bool
  | .sipInit => true
  | .sipBlock => true
  | .sipFinal _ => true
  | .perm => false
  | .subkey _ _ => false
  | .ksInit _ _ => false
  | .ksSetctr => false
  | .ksNext => false
  | .ksCrypt _ => false

end Sys2Proof.Machine
end

