-- ==== Sys2Proof/Certificates/Slice0/Obligations.lean ====
section
/-! DEFINITION. The statements about the core, from the numbered rules of spec/. A response a command gives is the one entry
it adds to `answers`; the seven items of 10_state.md rule R20 are the other fields (`SameCore`, `SameCipher`,
`SameHash` say which of them agree). -/

open Sys2Proof Sys2Proof.Machine

/-! ### Encoding and the command port -/

/-- Words written out from the spec's encodings decode to the commands they stand for (R71, R73, R81). -/
def Obligations.ListedWordsDecode : Prop :=
  decode 0x00000001 = .ok .perm ∧
  decode 0x00102002 = .ok (.subkey 32 16) ∧
  decode 0x00182010 = .ok (.ksInit 32 24) ∧
  decode 0x00000011 = .ok .ksSetctr ∧
  decode 0x00000012 = .ok .ksNext ∧
  decode 0x0000ff13 = .ok (.ksCrypt 255) ∧
  decode 0x00000020 = .ok .sipInit ∧
  decode 0x00000021 = .ok .sipBlock ∧
  decode 0x00000722 = .ok (.sipFinal 7)

/-- The encoder's word is the number R71 and R81 give: `OP + A * 0x100 + B * 0x10000`. -/
def Obligations.EncodedWordIsTheSumOfItsFields : Prop :=
  (encode .perm).toNat = 0x01 ∧
  (∀ klen plen : Byte, (encode (.subkey klen plen)).toNat = 0x02 + klen.toNat * 0x100 + plen.toNat * 0x10000) ∧
  (∀ klen nlen : Byte, (encode (.ksInit klen nlen)).toNat = 0x10 + klen.toNat * 0x100 + nlen.toNat * 0x10000) ∧
  (encode .ksSetctr).toNat = 0x11 ∧
  (encode .ksNext).toNat = 0x12 ∧
  (∀ n : Byte, (encode (.ksCrypt n)).toNat = 0x13 + n.toNat * 0x100) ∧
  (encode .sipInit).toNat = 0x20 ∧
  (encode .sipBlock).toNat = 0x21 ∧
  (∀ r : Byte, (encode (.sipFinal r)).toNat = 0x22 + r.toNat * 0x100)

/-- No bit of an encoding is dropped: every well-formed command comes back from its word. -/
def Obligations.DecodeEncodeRoundTrip : Prop :=
  ∀ i : Instr, i.wellFormed = true → decode (encode i) = .ok i

/-- Each legal word has one meaning: what the decoder accepts is well-formed and encodes to the same word. -/
def Obligations.EncodeDecodeRoundTrip : Prop :=
  ∀ (cw : W32) (i : Instr), decode cw = .ok i → i.wellFormed = true ∧ encode i = cw

/-- The decoder accepts exactly the words that are not illegal (R75). -/
def Obligations.DecoderAcceptsExactlyTheLegalWords : Prop :=
  ∀ cw : W32, (∃ i, decode cw = .ok i) ↔ ¬ IllegalWord cw

/-- A step runs the decoded command: the host's next move leaves its list, its payload is on the port, and the step is the
command's meaning there. -/
def Obligations.StepRunsTheDecodedCommand : Prop :=
  ∀ (s : State) (cw : W32) (din : List Byte) (later : List HostMove) (i : Instr),
    s.host = .command cw din :: later → decode cw = .ok i → i.wellFormed = true →
      step s = exec i { s with DIN := din, host := later }

/-- An illegal command word ends with `IllegalCommand`, an empty `DOUT`, and no change of state, whatever the payload
(R75). -/
def Obligations.IllegalWordIsRefused : Prop :=
  ∀ (s : State) (cw : W32) (din : List Byte) (later : List HostMove),
    s.host = .command cw din :: later → IllegalWord cw →
      step s = .next { s with DIN := [], host := later, answers := s.answers ++ [errorResponse 0x04] }

/-- A legal word with a payload of another length than it implies ends the same way, before any other check (R76). -/
def Obligations.WrongPayloadLengthIsRefused : Prop :=
  ∀ (i : Instr) (s : State), s.DIN.length ≠ payloadLength i →
    exec i s = .next { s with DIN := [], answers := s.answers ++ [errorResponse 0x04] }

/-- The payload length of each command word (R74, R78). -/
def Obligations.PayloadLengthTable : Prop :=
  payloadLength .perm = 64 ∧
  (∀ klen plen : Byte, payloadLength (.subkey klen plen) = klen.toNat + plen.toNat) ∧
  (∀ klen nlen : Byte, payloadLength (.ksInit klen nlen) = klen.toNat + nlen.toNat) ∧
  payloadLength .ksSetctr = 8 ∧
  payloadLength .ksNext = 0 ∧
  (∀ n : Byte, payloadLength (.ksCrypt n) = n.toNat) ∧
  payloadLength .sipInit = 16 ∧
  payloadLength .sipBlock = 8 ∧
  (∀ r : Byte, payloadLength (.sipFinal r) = r.toNat)

/-- When a command ends with `ST = 0x00`, `DOUT` has the length `RL` of R74; otherwise `DOUT` is empty (R72). -/
def Obligations.ResultLength : Prop :=
  ∀ (i : Instr) (s t : State), exec i s = .next t →
    ∃ r, t.answers = s.answers ++ [r] ∧
      (r.st = 0x00 → r.dout.length = resultLength i) ∧ (r.st ≠ 0x00 → r.dout = [])

/-- Every command, legal or not, is answered with exactly one response, and the host's later moves wait (R57). -/
def Obligations.EveryCommandIsAnsweredOnce : Prop :=
  ∀ (s t : State) (cw : W32) (din : List Byte) (later : List HostMove),
    s.host = .command cw din :: later → step s = .next t →
      t.host = later ∧ t.DIN = [] ∧ ∃ r, t.answers = s.answers ++ [r]

/-- With no move of the host to make, the core waits (R220; waiting as a step that changes nothing is the model's
choice, notes/assumptions/3.md). -/
def Obligations.IdleCoreWaits : Prop :=
  ∀ s : State, s.host = [] → step s = .next s

/-! ### Reset -/

/-- After reset no cipher context exists and no hash is in progress (R34). -/
def Obligations.ResetClearsBothFlags : Prop :=
  State.reset.KSV = false ∧ State.reset.SIPA = false

/-- The reset event clears both flags in any state and is answered with nothing (R220, R235). -/
def Obligations.ResetEvent : Prop :=
  ∀ (s : State) (later : List HostMove), s.host = .reset :: later →
    ∃ t, step s = .next t ∧ t.KSV = false ∧ t.SIPA = false ∧ t.host = later ∧ t.answers = s.answers

/-! ### Errors -/

/-- A command that ends with an error leaves the state of R20 exactly as it was, and `DOUT` empty (R198). -/
def Obligations.ErrorsChangeNothing : Prop :=
  ∀ (s t : State) (cw : W32) (din : List Byte) (later : List HostMove) (r : Response),
    s.host = .command cw din :: later → step s = .next t → t.answers = s.answers ++ [r] → r.st ≠ 0x00 →
      t = { s with DIN := [], host := later, answers := s.answers ++ [r] } ∧ r.dout = []

/-- Which statuses a command can return: the two length errors from `SUBKEY` and `KS.INIT` only, `NoContext` from the five
commands that need a set-up only, and no other code but 0 and 4 (R191). -/
def Obligations.StatusesByCommand : Prop :=
  ∀ (i : Instr) (s t : State) (r : Response), exec i s = .next t → t.answers = s.answers ++ [r] →
    r.st = 0x00 ∨ r.st = 0x04 ∨
    ((r.st = 0x01 ∨ r.st = 0x02) ∧ ((∃ a b, i = .subkey a b) ∨ ∃ a b, i = .ksInit a b)) ∨
    (r.st = 0x05 ∧ (i = .ksSetctr ∨ i = .ksNext ∨ (∃ n, i = .ksCrypt n) ∨ i = .sipBlock ∨ ∃ n, i = .sipFinal n))

/-- The two length errors, tested after the payload length, the key before the nonce (R192, R193): `SUBKEY` accepts a
32-byte key and a 16-byte prefix, `KS.INIT` a 32-byte key and a nonce of 16, 24 or 32 bytes. A refused command changes
no item of the state. -/
def Obligations.LengthErrors : Prop :=
  ∀ (a b : Byte) (s : State), s.DIN.length = a.toNat + b.toNat →
    (a ≠ 32 →
      exec (.subkey a b) s = .next { s with DIN := [], answers := s.answers ++ [errorResponse 0x01] } ∧
      exec (.ksInit a b) s = .next { s with DIN := [], answers := s.answers ++ [errorResponse 0x01] }) ∧
    (a = 32 → b ≠ 16 →
      exec (.subkey a b) s = .next { s with DIN := [], answers := s.answers ++ [errorResponse 0x02] }) ∧
    (a = 32 → b ≠ 16 → b ≠ 24 → b ≠ 32 →
      exec (.ksInit a b) s = .next { s with DIN := [], answers := s.answers ++ [errorResponse 0x02] })

/-- `NoContext`: the cipher commands with no context and the hash commands with no hash in progress (R196). -/
def Obligations.CommandsWithoutContextAreRefused : Prop :=
  ∀ (i : Instr) (s : State), i.wellFormed = true → s.DIN.length = payloadLength i →
    ((s.KSV = false ∧ (i = .ksSetctr ∨ i = .ksNext ∨ ∃ n, i = .ksCrypt n)) ∨
     (s.SIPA = false ∧ (i = .sipBlock ∨ ∃ r, i = .sipFinal r))) →
      exec i s = .next { s with DIN := [], answers := s.answers ++ [errorResponse 0x05] }

/-- `CounterOverflow` is returned by no command; a block generated at the last counter value succeeds, and the cipher
state after it is that of counter 0 (R194). -/
def Obligations.CounterOverflowIsNeverRaised : Prop :=
  (∀ (i : Instr) (s t : State) (r : Response), exec i s = .next t → t.answers = s.answers ++ [r] → r.st ≠ 0x03) ∧
  (∀ s : State, s.KSV = true → s.CUR = 64 → s.DIN = [] → counterOf s.S = 0xffffffffffffffff →
    ∃ t b, exec .ksNext s = .next t ∧ t.answers = s.answers ++ [okResponse [b]] ∧ t.S = withCounter 0 s.S)

/-! ### Bytes and words -/

/-- The little-endian conversions are inverse to each other (R12). -/
def Obligations.LittleEndianRoundTrip : Prop :=
  (∀ w : W32, le32 (st32 w) = w) ∧ (∀ w : W64, le64 (st64 w) = w) ∧
  (∀ b : List Byte, b.length = 4 → st32 (le32 b) = b) ∧ (∀ b : List Byte, b.length = 8 → st64 (le64 b) = b)

/-! ### Unit P -/

/-- The quarter-round, statement by statement, and its frame: the other 12 words are not written (R100). -/
def Obligations.QuarterRoundStatements : Prop :=
  ∀ (x : Vector W32 16) (a b c d : Fin 16), a ≠ b → a ≠ c → a ≠ d → b ≠ c → b ≠ d → c ≠ d →
    let a1 := x[a] + x[b]
    let d1 := (x[d] ^^^ a1).rotateLeft 16
    let c1 := x[c] + d1
    let b1 := (x[b] ^^^ c1).rotateLeft 12
    let a2 := a1 + b1
    let d2 := (d1 ^^^ a2).rotateLeft 8
    let c2 := c1 + d2
    let b2 := (b1 ^^^ c2).rotateLeft 7
    let y := quarterRound a b c d x
    y[a] = a2 ∧ y[b] = b2 ∧ y[c] = c2 ∧ y[d] = d2 ∧
      ∀ j : Fin 16, j ≠ a → j ≠ b → j ≠ c → j ≠ d → y[j] = x[j]

/-- The permutation is 10 iterations of 8 quarter-rounds in table order (R101). The index quadruples are those of R9, which the
spec takes from general knowledge and not from its source (PRESUMED, notes/assumptions/7.md). -/
def Obligations.PermutationIsTenIterations : Prop :=
  ∀ x : Vector W32 16,
    permute20 x =
      (fun y =>
        quarterRound 3 4 9 14 <| quarterRound 2 7 8 13 <| quarterRound 1 6 11 12 <| quarterRound 0 5 10 15 <|
        quarterRound 3 7 11 15 <| quarterRound 2 6 10 14 <| quarterRound 1 5 9 13 <| quarterRound 0 4 8 12 y)^[10] x

/-- Quarter-rounds on disjoint sets of words may be computed in any order (R102). -/
def Obligations.DisjointQuarterRoundsCommute : Prop :=
  ∀ (x : Vector W32 16) (a b c d e f g h : Fin 16), [a, b, c, d, e, f, g, h].Nodup →
    quarterRound a b c d (quarterRound e f g h x) = quarterRound e f g h (quarterRound a b c d x)

/-- The permutation is a bijection on 16-word arrays, and 16 zero words are a fixed point (R103). -/
def Obligations.PermutationIsBijective : Prop :=
  Function.Bijective permute20 ∧ permute20 (Vector.replicate 16 0) = Vector.replicate 16 0

/-- `PERM`: the permuted words of the payload, at any time, with no item of the state written (R104). -/
def Obligations.PermResult : Prop :=
  ∀ s : State,
    (s.DIN.length = 64 → exec .perm s =
      .next { s with
        DIN := []
        answers := s.answers ++
          [okResponse ((permute20 (Vector.ofFn fun i : Fin 16 => le32 (slice s.DIN (4 * i.val) 4))).toList.flatMap st32)] }) ∧
    (s.DIN = zeros 64 → exec .perm s =
      .next { s with DIN := [], answers := s.answers ++ [okResponse (zeros 64)] }) ∧
    (s.DIN.length ≠ 64 → exec .perm s =
      .next { s with DIN := [], answers := s.answers ++ [errorResponse 0x04] })

/-! ### Unit H -/

/-- `SUBKEY` with a 32-byte key and a 16-byte prefix: words 0 to 3 and 12 to 15 of the permuted seed, where the seed is
the constants and then the 12 words of the payload; nothing is written and there is no add-back (R120, R121, R122). The
four constants are the `SIGMA` of R8, which the spec takes from general knowledge and not from its source (PRESUMED,
notes/assumptions/7.md). -/
def Obligations.SubkeyResult : Prop :=
  ∀ s : State, s.DIN.length = 48 →
    let w := fun i : Nat => le32 (slice s.DIN (4 * i) 4)
    let y := permute20 #v[0x61707865, 0x3320646e, 0x79622d32, 0x6b206574,
      w 0, w 1, w 2, w 3, w 4, w 5, w 6, w 7, w 8, w 9, w 10, w 11]
    exec (.subkey 32 16) s =
      .next { s with
        DIN := []
        answers := s.answers ++
          [okResponse (st32 y[0] ++ st32 y[1] ++ st32 y[2] ++ st32 y[3] ++
            st32 y[12] ++ st32 y[13] ++ st32 y[14] ++ st32 y[15])] }

/-! ### Unit K -/

/-- `KS.INIT` with a 32-byte key and a nonce of an accepted length: the constants, the derived key, and the counter and
suffix words by the table of R135; FRESH, with `BUF` and unit S as they were (R120, R121, R134, R135, R136). The `SIGMA`
words (R8) and the places of the groups in `S` (R21) are taken from the published algorithm (PRESUMED,
notes/assumptions/7.md). -/
def Obligations.KsInitResult : Prop :=
  ∀ (nlen : Byte) (s : State), nlen = 16 ∨ nlen = 24 ∨ nlen = 32 → s.DIN.length = 32 + nlen.toNat →
    let w := fun i : Nat => le32 (slice s.DIN (4 * i) 4)
    let y := permute20 #v[0x61707865, 0x3320646e, 0x79622d32, 0x6b206574,
      w 0, w 1, w 2, w 3, w 4, w 5, w 6, w 7, w 8, w 9, w 10, w 11]
    let c0 := if nlen = 32 then w 12 else 0
    let c1 := if nlen = 32 then w 13 else 0
    let n0 := if nlen = 16 then 0 else if nlen = 24 then w 12 else w 14
    let n1 := if nlen = 16 then 0 else if nlen = 24 then w 13 else w 15
    exec (.ksInit 32 nlen) s =
      .next { s with
        S := #v[0x61707865, 0x3320646e, 0x79622d32, 0x6b206574,
          y[0], y[1], y[2], y[3], y[12], y[13], y[14], y[15], c0, c1, n0, n1]
        CUR := 64
        KSV := true
        DIN := []
        answers := s.answers ++ [okResponse []] }

/-- Two nonces that share their first 16 bytes give contexts with the same words 0 to 11 (R123). -/
def Obligations.SubkeyDependsOnTheNoncePrefix : Prop :=
  ∀ (s t s' t' : State) (n m : Byte) (key pre u v : List Byte),
    key.length = 32 → pre.length = 16 → s.DIN = key ++ pre ++ u → t.DIN = key ++ pre ++ v →
    exec (.ksInit 32 n) s = .next s' → exec (.ksInit 32 m) t = .next t' →
    s'.answers = s.answers ++ [okResponse []] → t'.answers = t.answers ++ [okResponse []] →
      ∀ j : Fin 12, s'.S[j.val] = t'.S[j.val]

/-- Set-ups that look different and give the same context (R223): (a) a 16-byte nonce and the same with 8 zero bytes; (b) a
32-byte nonce and a 24-byte nonce followed by `KS.SETCTR`; (c) a 32-byte nonce with 8 zero bytes in the middle; and
the cipher state of a 32-byte nonce after `j` increments is that of the nonce whose counter bytes are `j` further on
(R223 says it of the stream, which `KeystreamByPosition` makes a function of that state). The spec marks these as its own
inference: "derived: from 42_keystream.md rules R132, R134 and R135". -/
def Obligations.NonceIdentities : Prop :=
  ∀ (s : State) (key p c x : List Byte) (k : W64) (j : Nat),
    key.length = 32 → p.length = 16 → c.length = 8 → x.length = 8 →
    (∃ t, exec (.ksInit 32 16) { s with DIN := key ++ p } = .next t ∧
      exec (.ksInit 32 24) { s with DIN := key ++ p ++ zeros 8 } = .next t) ∧
    (∃ t u v, exec (.ksInit 32 32) { s with DIN := key ++ p ++ c ++ x } = .next t ∧
      exec (.ksInit 32 24) { s with DIN := key ++ p ++ x } = .next u ∧
      exec .ksSetctr { u with DIN := c } = .next v ∧ SameCore t v) ∧
    (∃ t, exec (.ksInit 32 32) { s with DIN := key ++ p ++ zeros 8 ++ x } = .next t ∧
      exec (.ksInit 32 24) { s with DIN := key ++ p ++ x } = .next t) ∧
    (∃ t u, exec (.ksInit 32 32) { s with DIN := key ++ p ++ st64 k ++ x } = .next t ∧
      exec (.ksInit 32 32) { s with DIN := key ++ p ++ st64 (k + BitVec.ofNat 64 j) ++ x } = .next u ∧
      u.S = incrementCounter^[j] t.S)

/-- `KS.SETCTR`: the counter words and nothing else, so `CTR` is the payload as a number; without a context
`NoContext`, and with another payload length `IllegalCommand` (R137). -/
def Obligations.KsSetctrResult : Prop :=
  ∀ s : State,
    (s.KSV = true → s.DIN.length = 8 →
      ∃ x, exec .ksSetctr s = .next { s with S := x, DIN := [], answers := s.answers ++ [okResponse []] } ∧
        x[12] = le32 (slice s.DIN 0 4) ∧ x[13] = le32 (slice s.DIN 4 4) ∧ SameButCounter x s.S ∧
        counterOf x = le64 s.DIN) ∧
    (s.KSV = false → s.DIN.length = 8 → exec .ksSetctr s =
      .next { s with DIN := [], answers := s.answers ++ [errorResponse 0x05] }) ∧
    (s.DIN.length ≠ 8 → exec .ksSetctr s =
      .next { s with DIN := [], answers := s.answers ++ [errorResponse 0x04] })

/-- The counter increment adds 1 to the 64-bit counter modulo 2^64: the carry out of word 12 goes into word 13, and no
other word is written (R132). -/
def Obligations.CounterIncrement : Prop :=
  ∀ x : Vector W32 16,
    let y := incrementCounter x
    y[12] = x[12] + 1 ∧ y[13] = (if x[12] + 1 = 0 then x[13] + 1 else x[13]) ∧ SameButCounter y x ∧
      counterOf y = counterOf x + 1

/-- Byte `4i+j` of a keystream block is byte `j` of the sum of word `i` of the permuted state and word `i` of the state
(R23, R131). -/
def Obligations.KeystreamBlockBytes : Prop :=
  ∀ (x : Vector W32 16) (i : Fin 16) (j : Fin 4),
    (keystreamBlock x)[4 * i.val + j.val] = ((permute20 x)[i] + x[i]).extractLsb' (8 * j.val) 8

/-- `KS.NEXT`: in the SERVING state `BUF[CUR]`, with the cursor alone moved; in the FRESH state byte 0 of a new block made
from `S` before the increment, with `BUF`, the counter and the cursor written (R131, R133, R138). -/
def Obligations.KsNextResult : Prop :=
  ∀ s : State, s.DIN = [] →
    (∀ h : s.CUR.toNat < 64, s.KSV = true → exec .ksNext s =
      .next { s with CUR := s.CUR + 1, DIN := [], answers := s.answers ++ [okResponse [s.BUF[s.CUR.toNat]]] }) ∧
    (s.CUR = 64 → s.KSV = true → exec .ksNext s =
      .next { s with
        S := incrementCounter s.S
        BUF := keystreamBlock s.S
        CUR := 1
        DIN := []
        answers := s.answers ++ [okResponse [(keystreamBlock s.S)[0]]] }) ∧
    (s.KSV = false → exec .ksNext s =
      .next { s with DIN := [], answers := s.answers ++ [errorResponse 0x05] })

/-- While a block is served the counter is one more than the value the block was made from (R22, R227): a `KS.NEXT` in the
FRESH state and a `KS.CRYPT` that refills leave it so, whatever was so before; every command but `KS.SETCTR` keeps it
so; and after a `KS.SETCTR` the buffer is still the block of the earlier counter value, whatever the new one is (R35). -/
def Obligations.CounterIsAheadOfTheBlock : Prop :=
  (∀ s : State, s.KSV = true → s.CUR = 64 → s.DIN = [] →
    ∃ t, exec .ksNext s = .next t ∧ t.CUR = 1 ∧ t.BUF = keystreamBlock (withCounter (counterBefore t) t.S)) ∧
  (∀ (n : Byte) (s : State), s.KSV = true → s.CUR.toNat ≤ 64 → s.DIN.length = n.toNat → 64 - s.CUR.toNat < n.toNat →
    ∃ t, exec (.ksCrypt n) s = .next t ∧ t.BUF = keystreamBlock (withCounter (counterBefore t) t.S)) ∧
  (∀ (i : Instr) (s t : State), i ≠ .ksSetctr → CounterAhead s → exec i s = .next t → CounterAhead t) ∧
  (∀ (s : State) (c : W64), s.KSV = true → s.CUR.toNat < 64 → CounterAhead s →
    ∃ t, exec .ksSetctr { s with DIN := st64 c } = .next t ∧ t.CUR = s.CUR ∧ counterOf t.S = c ∧
      t.BUF = keystreamBlock (withCounter (counterBefore s) t.S))

/-- `KS.CRYPT`: `DOUT` is the payload XORed byte by byte with the next `n` keystream bytes, and the state is the one
`NextByte` leaves after `n` bytes; with `n = 0` nothing changes (R139). -/
def Obligations.KsCryptResult : Prop :=
  ∀ (n : Byte) (s : State), s.DIN.length = n.toNat →
    (s.KSV = true → s.CUR.toNat ≤ 64 →
      ∃ ks u, takeBytes n.toNat s = some (ks, u) ∧ ks.length = n.toNat ∧
        exec (.ksCrypt n) s =
          .next { u with DIN := [], answers := s.answers ++ [okResponse (List.zipWith (· ^^^ ·) s.DIN ks)] }) ∧
    (s.KSV = true → n = 0 → exec (.ksCrypt n) s =
      .next { s with DIN := [], answers := s.answers ++ [okResponse []] }) ∧
    (s.KSV = false → exec (.ksCrypt n) s =
      .next { s with DIN := [], answers := s.answers ++ [errorResponse 0x05] })

/-- The refills `KS.CRYPT` makes, seen in the counter, and where it leaves the cursor (R139). -/
def Obligations.KsCryptRefills : Prop :=
  ∀ (n : Byte) (s : State), s.DIN.length = n.toNat → s.KSV = true → s.CUR.toNat ≤ 64 → n ≠ 0 →
    ∃ t, exec (.ksCrypt n) s = .next t ∧
      counterOf t.S = counterOf s.S + BitVec.ofNat 64 (refillCount n.toNat s.CUR.toNat) ∧
      t.CUR.toNat = (s.CUR.toNat + n.toNat - 1) % 64 + 1

/-- A byte wanted where `BUF[CUR]` does not exist stops the machine with `bufferIndex` (the model's choice, in states no
run reaches, notes/assumptions/4.md). -/
def Obligations.ByteBeyondTheBufferStops : Prop :=
  ∀ s : State, s.KSV = true → 64 < s.CUR.toNat →
    (s.DIN = [] → exec .ksNext s = .fault .bufferIndex) ∧
    (∀ n : Byte, n ≠ 0 → s.DIN.length = n.toNat → exec (.ksCrypt n) s = .fault .bufferIndex)

/-- Two `KS.CRYPT` in a row give the bytes and the state of one over the concatenation (R140). -/
def Obligations.SplittingACryptChangesNothing : Prop :=
  ∀ (a b : Byte) (s : State) (x y : List Byte), x.length = a.toNat → y.length = b.toNat → a.toNat + b.toNat < 256 →
    s.KSV = true → s.CUR.toNat ≤ 64 →
    ∃ t u v out1 out2,
      exec (.ksCrypt a) { s with DIN := x } = .next t ∧ t.answers = s.answers ++ [okResponse out1] ∧
      exec (.ksCrypt b) { t with DIN := y } = .next u ∧ u.answers = t.answers ++ [okResponse out2] ∧
      exec (.ksCrypt (a + b)) { s with DIN := x ++ y } = .next v ∧
      v.answers = s.answers ++ [okResponse (out1 ++ out2)] ∧ SameCore u v

/-- `KS.NEXT` takes the same byte as `KS.CRYPT` of one zero byte, and leaves the same state (R138, R139, R140). -/
def Obligations.NextIsCryptOfAZeroByte : Prop :=
  ∀ s : State, exec .ksNext { s with DIN := [] } = exec (.ksCrypt 1) { s with DIN := [0] }

/-- Decryption is encryption from the same cipher context: it gives the plaintext back and leaves the same context
(R140). -/
def Obligations.DecryptUndoesEncrypt : Prop :=
  ∀ (n : Byte) (s r : State) (p : List Byte), SameCipher s r → s.KSV = true → s.CUR.toNat ≤ 64 →
    p.length = n.toNat →
    ∃ t u c, exec (.ksCrypt n) { s with DIN := p } = .next t ∧ t.answers = s.answers ++ [okResponse c] ∧
      c.length = n.toNat ∧
      exec (.ksCrypt n) { r with DIN := c } = .next u ∧ u.answers = r.answers ++ [okResponse p] ∧ SameCipher t u

/-- The keystream is a function of the context and the position: byte `j` taken from a FRESH generator with counter `c0`
is byte `j mod 64` of the block at counter `c0 + j/64` (R141, which the spec marks as its own inference: "derived: from
rules R131 to R133"). -/
def Obligations.KeystreamByPosition : Prop :=
  ∀ (s : State) (n : Nat), s.CUR = 64 →
    ∃ ks u, takeBytes n s = some (ks, u) ∧ ks.length = n ∧
      ∀ j, j < n →
        ks[j]? = (keystreamBlock (withCounter (counterOf s.S + BitVec.ofNat 64 (j / 64)) s.S))[j % 64]?

/-- Counter seek in the FRESH state: after `KS.SETCTR` with `N` the bytes are those from counter 0 with the first `N`
blocks discarded (R142). -/
def Obligations.CounterSeek : Prop :=
  ∀ (s : State) (N : W64) (n : Nat), s.KSV = true → s.CUR = 64 → counterOf s.S = 0 →
    ∃ t ks u v, exec .ksSetctr { s with DIN := st64 N } = .next t ∧
      takeBytes (64 * N.toNat + n) s = some (ks, u) ∧ takeBytes n t = some (ks.drop (64 * N.toNat), v)

/-- `KS.SETCTR` in the SERVING state: the `64 - CUR` bytes of the old block are served first, then the block of the new
counter (R137, R224). -/
def Obligations.SeekInMidBlockServesStaleBytes : Prop :=
  ∀ (s : State) (c : W64) (n : Nat), s.KSV = true → s.CUR.toNat < 64 → n ≤ 64 →
    ∃ t u, exec .ksSetctr { s with DIN := st64 c } = .next t ∧
      takeBytes (64 - s.CUR.toNat + n) t =
        some (s.BUF.toList.drop s.CUR.toNat ++ (keystreamBlock (withCounter c s.S)).toList.take n, u)

/-- A recorded position can be taken up again (R227): the record of a SERVING state is `(CTR - 1, CUR)`, that of a FRESH one
is `(CTR, 0)`. In a FRESH context that differs in the counter and the buffer alone, as `KS.INIT` with the same operands
leaves it, `KS.SETCTR` with the recorded counter and as many discarded bytes as the recorded offset give back the
recorded cipher state and cursor, and the buffer if some of it is still to be served; and from there on, for any number
of bytes, the same bytes come. -/
def Obligations.RecordedPositionCanBeResumed : Prop :=
  ∀ s r : State, s.KSV = true → s.CUR.toNat ≤ 64 → CounterAhead s →
    r.KSV = true → r.CUR = 64 → SameButCounter r.S s.S →
    ∃ t bs u, exec .ksSetctr { r with DIN := st64 (recordedCounter s) } = .next t ∧
      takeBytes (recordedOffset s) t = some (bs, u) ∧
      (0 < s.CUR.toNat → u.S = s.S ∧ u.CUR = s.CUR ∧ u.KSV = s.KSV ∧ (s.CUR.toNat < 64 → u.BUF = s.BUF)) ∧
      ∀ n : Nat, ∃ ks v w, takeBytes n u = some (ks, v) ∧ takeBytes n s = some (ks, w)

/-- `encrypt` of the library: the commands it expands to, run on an instance that holds a context, give the input XORed
with the keystream, however the input was cut (R86). That the cut does not matter is R140, which the spec marks as its own
inference: "derived: from rules R133, R138 and R139, every byte comes from the same `NextByte`". -/
def Obligations.EncryptExpansion : Prop :=
  ∀ (s : State) (input : List Byte) (later : List HostMove), s.host = encryptMoves input ++ later →
    s.KSV = true → s.CUR.toNat ≤ 64 →
    (encryptMoves input).length = (input.length + 254) / 255 ∧
    ∃ ks u t, takeBytes input.length s = some (ks, u) ∧ ks.length = input.length ∧
      core.run (encryptMoves input).length s = .next t ∧ t.host = later ∧ SameCore u t ∧
      joinedResult (t.answers.drop s.answers.length) = List.zipWith (· ^^^ ·) input ks

/-! ### Unit S -/

/-- The half-round, statement by statement, on four different words (R160). -/
def Obligations.HalfRoundStatements : Prop :=
  ∀ (v : Vector W64 4) (a b c d : Fin 4) (r1 r2 : Nat), a ≠ b → a ≠ c → a ≠ d → b ≠ c → b ≠ d → c ≠ d →
    0 < r1 → r1 < 64 → 0 < r2 → r2 < 64 →
    let va := v[a] + v[b]
    let vc := v[c] + v[d]
    let y := halfRound a b c d r1 r2 v
    y[a] = va.rotateLeft 32 ∧ y[b] = v[b].rotateLeft r1 ^^^ va ∧ y[c] = vc ∧ y[d] = v[d].rotateLeft r2 ^^^ vc

/-- A `SipRound` is two half-rounds: 13 and 16 on words 0, 1, 2, 3, then 17 and 21 with words 0 and 2 exchanged (R161). The
operands of the second half-round are those of the published SipHash, which the spec takes from general knowledge
(PRESUMED, notes/assumptions/7.md); that zero is a fixed point the spec marks "derived: from rule R160". -/
def Obligations.SipRoundIsTwoHalfRounds : Prop :=
  (∀ v : Vector W64 4, sipRound v = halfRound 2 1 0 3 17 21 (halfRound 0 1 2 3 13 16 v)) ∧
  sipRound (Vector.replicate 4 0) = Vector.replicate 4 0

/-- The final word is the tail, zeros, and the length in the top byte, as eight bytes (R164). -/
def Obligations.FinalWordLayout : Prop :=
  ∀ (rest : List Byte) (len : Byte), rest.length ≤ 7 →
    finalWord rest len = le64 (rest ++ zeros (7 - rest.length) ++ [len])

/-- `SIP.INIT`: the four key and constant words, `LEN = 0`, a hash in progress; a hash that was in progress is discarded,
and unit K is not touched (R162, R166). The constants are the `SIPC` of R10; they, and which key word goes with which
constant, the spec takes from general knowledge and not from its source (PRESUMED, notes/assumptions/7.md). -/
def Obligations.SipInitResult : Prop :=
  ∀ s : State,
    (s.DIN.length = 16 →
      let k0 := le64 (slice s.DIN 0 8)
      let k1 := le64 (slice s.DIN 8 8)
      exec .sipInit s =
        .next { s with
          V := #v[k0 ^^^ 0x736f6d6570736575, k1 ^^^ 0x646f72616e646f6d, k0 ^^^ 0x6c7967656e657261, k1 ^^^ 0x7465646279746573]
          LEN := 0
          SIPA := true
          DIN := []
          answers := s.answers ++ [okResponse []] }) ∧
    (s.DIN.length ≠ 16 → exec .sipInit s =
      .next { s with DIN := [], answers := s.answers ++ [errorResponse 0x04] })

/-- `SIP.BLOCK`: the message word goes into word 3, two rounds, the same word into word 0; `LEN` grows by 8 modulo 256;
without a hash in progress `NoContext` (R163, R167). -/
def Obligations.SipBlockResult : Prop :=
  ∀ s : State,
    (s.SIPA = true → s.DIN.length = 8 →
      let m := le64 s.DIN
      let x := sipRound (sipRound (s.V.set 3 (s.V[3] ^^^ m)))
      exec .sipBlock s =
        .next { s with
          V := x.set 0 (x[0] ^^^ m)
          LEN := s.LEN + 8
          DIN := []
          answers := s.answers ++ [okResponse []] }) ∧
    (s.SIPA = false → s.DIN.length = 8 → exec .sipBlock s =
      .next { s with DIN := [], answers := s.answers ++ [errorResponse 0x05] }) ∧
    (s.DIN.length ≠ 8 → exec .sipBlock s =
      .next { s with DIN := [], answers := s.answers ++ [errorResponse 0x04] })

/-- `SIP.FINAL`: the final block is absorbed, 0xff goes into word 2, four rounds; the digest is the exclusive or of the
four words, little-endian; the hash is over and `LEN` keeps its value (R163, R164, R165, R168). Without a hash in progress
the command ends with `NoContext`. A tail length above 7, a term no command word decodes to, is refused (DEDUCED,
notes/assumptions/15.md). -/
def Obligations.SipFinalResult : Prop :=
  ∀ (r : Byte) (s : State), s.DIN.length = r.toNat →
    (r.toNat ≤ 7 → s.SIPA = true →
      let m := le64 (s.DIN ++ zeros (7 - s.DIN.length) ++ [s.LEN + r])
      let x := sipRound (sipRound (s.V.set 3 (s.V[3] ^^^ m)))
      let y := x.set 0 (x[0] ^^^ m)
      let z := sipRound (sipRound (sipRound (sipRound (y.set 2 (y[2] ^^^ 0xff)))))
      exec (.sipFinal r) s =
        .next { s with
          V := z
          SIPA := false
          DIN := []
          answers := s.answers ++ [okResponse (st64 (z[0] ^^^ z[1] ^^^ z[2] ^^^ z[3]))] }) ∧
    (r.toNat ≤ 7 → s.SIPA = false → exec (.sipFinal r) s =
      .next { s with DIN := [], answers := s.answers ++ [errorResponse 0x05] }) ∧
    (7 < r.toNat → exec (.sipFinal r) s =
      .next { s with DIN := [], answers := s.answers ++ [errorResponse 0x04] })

/-- `siphash24` of the library: the commands it expands to, run from any state, return the digest of the one function
`SipHash24`, and leave unit K as it was (R88, R169). That the sequence and the one function agree the spec marks as its own
inference: "derived: from rules R166 to R168". -/
def Obligations.SipHashSequenceComputesSipHash24 : Prop :=
  ∀ (s : State) (input key : List Byte) (later : List HostMove), key.length = 16 →
    s.host = siphash24Moves input key ++ later →
    ∃ t, core.run (siphash24Moves input key).length s = .next t ∧ t.host = later ∧ SameCipher s t ∧ t.SIPA = false ∧
      t.answers = s.answers ++ List.replicate (input.length / 8 + 1) (okResponse []) ++
        [okResponse (st64 (sipHash24 input key))]

/-! ### Frames, flags, independence -/

/-- The access matrix (R33): what each command leaves unchanged when it answers a next state. -/
def Obligations.AccessMatrix : Prop :=
  ∀ (i : Instr) (s t : State), exec i s = .next t →
    t.host = s.host ∧
    match i with
    | .perm => SameCore s t
    | .subkey _ _ => SameCore s t
    | .ksInit _ _ => SameHash s t ∧ t.BUF = s.BUF
    | .ksSetctr => SameHash s t ∧ t.BUF = s.BUF ∧ t.CUR = s.CUR ∧ t.KSV = s.KSV ∧ SameButCounter t.S s.S
    | .ksNext =>
      SameHash s t ∧ t.KSV = s.KSV ∧ SameButCounter t.S s.S ∧ (s.CUR ≠ 64 → t.S = s.S ∧ t.BUF = s.BUF)
    | .ksCrypt n =>
      SameHash s t ∧ t.KSV = s.KSV ∧ SameButCounter t.S s.S ∧
        (refillCount n.toNat s.CUR.toNat = 0 → t.S = s.S ∧ t.BUF = s.BUF)
    | .sipInit => SameCipher s t
    | .sipBlock => SameCipher s t ∧ t.SIPA = s.SIPA
    | .sipFinal _ => SameCipher s t ∧ t.LEN = s.LEN

/-- What sets and clears the two flags (R25, R28): `KSV` is set by a `KS.INIT` that succeeds and cleared by reset alone;
`SIPA` is set by `SIP.INIT` and cleared by a `SIP.FINAL` that succeeds or by reset. -/
def Obligations.FlagTransitions : Prop :=
  ∀ s t : State, step s = .next t →
    (s.KSV = false → t.KSV = true →
      ∃ cw din later a b, s.host = .command cw din :: later ∧ decode cw = .ok (.ksInit a b) ∧
        t.answers = s.answers ++ [okResponse []]) ∧
    (s.KSV = true → t.KSV = false → ∃ later, s.host = .reset :: later) ∧
    (s.SIPA = false → t.SIPA = true →
      ∃ cw din later, s.host = .command cw din :: later ∧ decode cw = .ok .sipInit ∧
        t.answers = s.answers ++ [okResponse []]) ∧
    (s.SIPA = true → t.SIPA = false →
      (∃ later, s.host = .reset :: later) ∨
      ∃ cw din later r dout, s.host = .command cw din :: later ∧ decode cw = .ok (.sipFinal r) ∧
        t.answers = s.answers ++ [okResponse dout])

/-- Unit K commands neither read nor write unit S (R171): in two states that agree on unit K and the payload they give the
same response and the same context, and each leaves its own hash state alone. -/
def Obligations.CipherCommandsIgnoreTheHash : Prop :=
  ∀ (i : Instr) (s r s' : State), usesHash i = false → SameCipher s r → s.DIN = r.DIN → exec i s = .next s' →
    ∃ r' a, exec i r = .next r' ∧ s'.answers = s.answers ++ [a] ∧ r'.answers = r.answers ++ [a] ∧
      SameCipher s' r' ∧ SameHash s s' ∧ SameHash r r'

/-- Unit S commands neither read nor write unit K (R171). -/
def Obligations.HashCommandsIgnoreTheCipher : Prop :=
  ∀ (i : Instr) (s r s' : State), usesCipher i = false → SameHash s r → s.DIN = r.DIN → exec i s = .next s' →
    ∃ r' a, exec i r = .next r' ∧ s'.answers = s.answers ++ [a] ∧ r'.answers = r.answers ++ [a] ∧
      SameHash s' r' ∧ SameCipher s s' ∧ SameCipher r r'

/-! ### The whole machine -/

/-- The invariant of R35 holds after reset, where no context exists. -/
def Obligations.InvariantAtReset : Prop :=
  Inv State.reset

/-- Every step keeps the invariant of R35, from any state that has it. -/
def Obligations.StepKeepsTheInvariant : Prop :=
  ∀ s t : State, Inv s → step s = .next t → Inv t

/-- Under the invariant no step stops: every command word and every payload is answered (R77, R237). -/
def Obligations.EveryStepGoesOn : Prop :=
  ∀ s : State, Inv s → SafeStep s

/-- What the spec leaves unspecified is unobservable (R25, R28, R34): two states that differ only in items no command can
observe stay so, and give the same responses, along every run. -/
def Obligations.UnspecifiedItemsAreUnobservable : Prop :=
  ∀ (k : Nat) (s t : State), Indistinguishable s t →
    OutcomesRelate Indistinguishable (core.run k s) (core.run k t)
end

