-- ==== Sys2Proof/Laws/Encode.lean ====
section
/-! SUPPORT. The fields of an assembled command word are the ones it was assembled from (30_encoding.md rule R71). -/

namespace Sys2Proof

/-- A byte has no bit at or above 8. -/
theorem getLsbD_byte (x : Byte) {k : Nat} (h : 8 ≤ k) : x.getLsbD k = false :=
  BitVec.getLsbD_of_ge x k h

theorem op_packWord (op a b : Byte) : CW.op (packWord op a b) = op := by
  simp only [CW.op, packWord]
  ext j hj
  simp [show j < 16 by omega, show j < 32 by omega, hj]

theorem a_packWord (op a b : Byte) : CW.a (packWord op a b) = a := by
  simp only [CW.a, packWord]
  ext j hj
  simp [show 8 + j < 16 by omega, show 8 + j < 32 by omega, hj]

theorem b_packWord (op a b : Byte) : CW.b (packWord op a b) = b := by
  simp only [CW.b, packWord]
  ext j hj
  simp [show 16 + j < 32 by omega, show ¬ 16 + j < 16 by omega, hj, getLsbD_byte op (k := 16 + j) (by omega),
    getLsbD_byte a (k := 16 + j - 8) (by omega)]

theorem z_packWord (op a b : Byte) : CW.z (packWord op a b) = 0 := by
  simp only [CW.z, packWord]
  ext j hj
  simp [show 24 + j < 32 by omega, show ¬ 24 + j < 16 by omega, getLsbD_byte op (k := 24 + j) (by omega),
    getLsbD_byte a (k := 24 + j - 8) (by omega), getLsbD_byte b (k := 24 + j - 16) (by omega)]

end Sys2Proof
end

