-- ==== Sys2Proof/Laws/State.lean ====
section
/-! SUPPORT. One lemma per field per update of `State`: what the update leaves there. All hold by `rfl`, so no later
proof unfolds a record update. -/

namespace Sys2Proof.Machine

@[simp] theorem respond_S (st : Status) (dout : List Byte) (s : State) :
    (s.respond st dout).S = s.S := rfl
@[simp] theorem respond_BUF (st : Status) (dout : List Byte) (s : State) :
    (s.respond st dout).BUF = s.BUF := rfl
@[simp] theorem respond_CUR (st : Status) (dout : List Byte) (s : State) :
    (s.respond st dout).CUR = s.CUR := rfl
@[simp] theorem respond_KSV (st : Status) (dout : List Byte) (s : State) :
    (s.respond st dout).KSV = s.KSV := rfl
@[simp] theorem respond_V (st : Status) (dout : List Byte) (s : State) :
    (s.respond st dout).V = s.V := rfl
@[simp] theorem respond_LEN (st : Status) (dout : List Byte) (s : State) :
    (s.respond st dout).LEN = s.LEN := rfl
@[simp] theorem respond_SIPA (st : Status) (dout : List Byte) (s : State) :
    (s.respond st dout).SIPA = s.SIPA := rfl
@[simp] theorem respond_DIN (st : Status) (dout : List Byte) (s : State) :
    (s.respond st dout).DIN = [] := rfl
@[simp] theorem respond_host (st : Status) (dout : List Byte) (s : State) :
    (s.respond st dout).host = s.host := rfl
@[simp] theorem respond_answers (st : Status) (dout : List Byte) (s : State) :
    (s.respond st dout).answers = s.answers ++ [⟨st.code, dout⟩] := rfl

@[simp] theorem present_S (din : List Byte) (later : List HostMove) (s : State) :
    (s.present din later).S = s.S := rfl
@[simp] theorem present_BUF (din : List Byte) (later : List HostMove) (s : State) :
    (s.present din later).BUF = s.BUF := rfl
@[simp] theorem present_CUR (din : List Byte) (later : List HostMove) (s : State) :
    (s.present din later).CUR = s.CUR := rfl
@[simp] theorem present_KSV (din : List Byte) (later : List HostMove) (s : State) :
    (s.present din later).KSV = s.KSV := rfl
@[simp] theorem present_V (din : List Byte) (later : List HostMove) (s : State) :
    (s.present din later).V = s.V := rfl
@[simp] theorem present_LEN (din : List Byte) (later : List HostMove) (s : State) :
    (s.present din later).LEN = s.LEN := rfl
@[simp] theorem present_SIPA (din : List Byte) (later : List HostMove) (s : State) :
    (s.present din later).SIPA = s.SIPA := rfl
@[simp] theorem present_DIN (din : List Byte) (later : List HostMove) (s : State) :
    (s.present din later).DIN = din := rfl
@[simp] theorem present_host (din : List Byte) (later : List HostMove) (s : State) :
    (s.present din later).host = later := rfl
@[simp] theorem present_answers (din : List Byte) (later : List HostMove) (s : State) :
    (s.present din later).answers = s.answers := rfl

@[simp] theorem resetBy_S (later : List HostMove) (s : State) :
    (s.resetBy later).S = State.reset.S := rfl
@[simp] theorem resetBy_BUF (later : List HostMove) (s : State) :
    (s.resetBy later).BUF = State.reset.BUF := rfl
@[simp] theorem resetBy_CUR (later : List HostMove) (s : State) :
    (s.resetBy later).CUR = 0 := rfl
@[simp] theorem resetBy_KSV (later : List HostMove) (s : State) :
    (s.resetBy later).KSV = false := rfl
@[simp] theorem resetBy_V (later : List HostMove) (s : State) :
    (s.resetBy later).V = State.reset.V := rfl
@[simp] theorem resetBy_LEN (later : List HostMove) (s : State) :
    (s.resetBy later).LEN = 0 := rfl
@[simp] theorem resetBy_SIPA (later : List HostMove) (s : State) :
    (s.resetBy later).SIPA = false := rfl
@[simp] theorem resetBy_DIN (later : List HostMove) (s : State) :
    (s.resetBy later).DIN = [] := rfl
@[simp] theorem resetBy_host (later : List HostMove) (s : State) :
    (s.resetBy later).host = later := rfl
@[simp] theorem resetBy_answers (later : List HostMove) (s : State) :
    (s.resetBy later).answers = s.answers := rfl

@[simp] theorem refill_S (s : State) :
    s.refill.S = incrementCounter s.S := rfl
@[simp] theorem refill_BUF (s : State) :
    s.refill.BUF = keystreamBlock s.S := rfl
@[simp] theorem refill_CUR (s : State) :
    s.refill.CUR = 0 := rfl
@[simp] theorem refill_KSV (s : State) :
    s.refill.KSV = s.KSV := rfl
@[simp] theorem refill_V (s : State) :
    s.refill.V = s.V := rfl
@[simp] theorem refill_LEN (s : State) :
    s.refill.LEN = s.LEN := rfl
@[simp] theorem refill_SIPA (s : State) :
    s.refill.SIPA = s.SIPA := rfl
@[simp] theorem refill_DIN (s : State) :
    s.refill.DIN = s.DIN := rfl
@[simp] theorem refill_host (s : State) :
    s.refill.host = s.host := rfl
@[simp] theorem refill_answers (s : State) :
    s.refill.answers = s.answers := rfl

@[simp] theorem advance_S (s : State) :
    s.advance.S = s.S := rfl
@[simp] theorem advance_BUF (s : State) :
    s.advance.BUF = s.BUF := rfl
@[simp] theorem advance_CUR (s : State) :
    s.advance.CUR = s.CUR + 1 := rfl
@[simp] theorem advance_KSV (s : State) :
    s.advance.KSV = s.KSV := rfl
@[simp] theorem advance_V (s : State) :
    s.advance.V = s.V := rfl
@[simp] theorem advance_LEN (s : State) :
    s.advance.LEN = s.LEN := rfl
@[simp] theorem advance_SIPA (s : State) :
    s.advance.SIPA = s.SIPA := rfl
@[simp] theorem advance_DIN (s : State) :
    s.advance.DIN = s.DIN := rfl
@[simp] theorem advance_host (s : State) :
    s.advance.host = s.host := rfl
@[simp] theorem advance_answers (s : State) :
    s.advance.answers = s.answers := rfl

@[simp] theorem keySetup_S (dk : Vector W32 8) (t : List Byte) (s : State) :
    (s.keySetup dk t).S = layout config.sigma dk (wordsOf 4 t) := rfl
@[simp] theorem keySetup_BUF (dk : Vector W32 8) (t : List Byte) (s : State) :
    (s.keySetup dk t).BUF = s.BUF := rfl
@[simp] theorem keySetup_CUR (dk : Vector W32 8) (t : List Byte) (s : State) :
    (s.keySetup dk t).CUR = 64 := rfl
@[simp] theorem keySetup_KSV (dk : Vector W32 8) (t : List Byte) (s : State) :
    (s.keySetup dk t).KSV = true := rfl
@[simp] theorem keySetup_V (dk : Vector W32 8) (t : List Byte) (s : State) :
    (s.keySetup dk t).V = s.V := rfl
@[simp] theorem keySetup_LEN (dk : Vector W32 8) (t : List Byte) (s : State) :
    (s.keySetup dk t).LEN = s.LEN := rfl
@[simp] theorem keySetup_SIPA (dk : Vector W32 8) (t : List Byte) (s : State) :
    (s.keySetup dk t).SIPA = s.SIPA := rfl
@[simp] theorem keySetup_DIN (dk : Vector W32 8) (t : List Byte) (s : State) :
    (s.keySetup dk t).DIN = s.DIN := rfl
@[simp] theorem keySetup_host (dk : Vector W32 8) (t : List Byte) (s : State) :
    (s.keySetup dk t).host = s.host := rfl
@[simp] theorem keySetup_answers (dk : Vector W32 8) (t : List Byte) (s : State) :
    (s.keySetup dk t).answers = s.answers := rfl

@[simp] theorem initStream_S (key nonce : List Byte) (nlen : Nat) (s : State) :
    (s.initStream key nonce nlen).S = layout config.sigma (wordsOf 8 (subkey key (slice nonce 0 16))) (wordsOf 4 (tail nonce nlen)) := rfl
@[simp] theorem initStream_BUF (key nonce : List Byte) (nlen : Nat) (s : State) :
    (s.initStream key nonce nlen).BUF = s.BUF := rfl
@[simp] theorem initStream_CUR (key nonce : List Byte) (nlen : Nat) (s : State) :
    (s.initStream key nonce nlen).CUR = 64 := rfl
@[simp] theorem initStream_KSV (key nonce : List Byte) (nlen : Nat) (s : State) :
    (s.initStream key nonce nlen).KSV = true := rfl
@[simp] theorem initStream_V (key nonce : List Byte) (nlen : Nat) (s : State) :
    (s.initStream key nonce nlen).V = s.V := rfl
@[simp] theorem initStream_LEN (key nonce : List Byte) (nlen : Nat) (s : State) :
    (s.initStream key nonce nlen).LEN = s.LEN := rfl
@[simp] theorem initStream_SIPA (key nonce : List Byte) (nlen : Nat) (s : State) :
    (s.initStream key nonce nlen).SIPA = s.SIPA := rfl
@[simp] theorem initStream_DIN (key nonce : List Byte) (nlen : Nat) (s : State) :
    (s.initStream key nonce nlen).DIN = s.DIN := rfl
@[simp] theorem initStream_host (key nonce : List Byte) (nlen : Nat) (s : State) :
    (s.initStream key nonce nlen).host = s.host := rfl
@[simp] theorem initStream_answers (key nonce : List Byte) (nlen : Nat) (s : State) :
    (s.initStream key nonce nlen).answers = s.answers := rfl

@[simp] theorem setCounter_S (counter : List Byte) (s : State) :
    (s.setCounter counter).S = setCounterWords (le32 (slice counter 0 4)) (le32 (slice counter 4 4)) s.S := rfl
@[simp] theorem setCounter_BUF (counter : List Byte) (s : State) :
    (s.setCounter counter).BUF = s.BUF := rfl
@[simp] theorem setCounter_CUR (counter : List Byte) (s : State) :
    (s.setCounter counter).CUR = s.CUR := rfl
@[simp] theorem setCounter_KSV (counter : List Byte) (s : State) :
    (s.setCounter counter).KSV = s.KSV := rfl
@[simp] theorem setCounter_V (counter : List Byte) (s : State) :
    (s.setCounter counter).V = s.V := rfl
@[simp] theorem setCounter_LEN (counter : List Byte) (s : State) :
    (s.setCounter counter).LEN = s.LEN := rfl
@[simp] theorem setCounter_SIPA (counter : List Byte) (s : State) :
    (s.setCounter counter).SIPA = s.SIPA := rfl
@[simp] theorem setCounter_DIN (counter : List Byte) (s : State) :
    (s.setCounter counter).DIN = s.DIN := rfl
@[simp] theorem setCounter_host (counter : List Byte) (s : State) :
    (s.setCounter counter).host = s.host := rfl
@[simp] theorem setCounter_answers (counter : List Byte) (s : State) :
    (s.setCounter counter).answers = s.answers := rfl

@[simp] theorem beginHash_S (key : List Byte) (s : State) :
    (s.beginHash key).S = s.S := rfl
@[simp] theorem beginHash_BUF (key : List Byte) (s : State) :
    (s.beginHash key).BUF = s.BUF := rfl
@[simp] theorem beginHash_CUR (key : List Byte) (s : State) :
    (s.beginHash key).CUR = s.CUR := rfl
@[simp] theorem beginHash_KSV (key : List Byte) (s : State) :
    (s.beginHash key).KSV = s.KSV := rfl
@[simp] theorem beginHash_V (key : List Byte) (s : State) :
    (s.beginHash key).V = sipSeed key := rfl
@[simp] theorem beginHash_LEN (key : List Byte) (s : State) :
    (s.beginHash key).LEN = 0 := rfl
@[simp] theorem beginHash_SIPA (key : List Byte) (s : State) :
    (s.beginHash key).SIPA = true := rfl
@[simp] theorem beginHash_DIN (key : List Byte) (s : State) :
    (s.beginHash key).DIN = s.DIN := rfl
@[simp] theorem beginHash_host (key : List Byte) (s : State) :
    (s.beginHash key).host = s.host := rfl
@[simp] theorem beginHash_answers (key : List Byte) (s : State) :
    (s.beginHash key).answers = s.answers := rfl

@[simp] theorem absorbChunk_S (m : List Byte) (s : State) :
    (s.absorbChunk m).S = s.S := rfl
@[simp] theorem absorbChunk_BUF (m : List Byte) (s : State) :
    (s.absorbChunk m).BUF = s.BUF := rfl
@[simp] theorem absorbChunk_CUR (m : List Byte) (s : State) :
    (s.absorbChunk m).CUR = s.CUR := rfl
@[simp] theorem absorbChunk_KSV (m : List Byte) (s : State) :
    (s.absorbChunk m).KSV = s.KSV := rfl
@[simp] theorem absorbChunk_V (m : List Byte) (s : State) :
    (s.absorbChunk m).V = sipAbsorb (le64 m) s.V := rfl
@[simp] theorem absorbChunk_LEN (m : List Byte) (s : State) :
    (s.absorbChunk m).LEN = s.LEN + 8 := rfl
@[simp] theorem absorbChunk_SIPA (m : List Byte) (s : State) :
    (s.absorbChunk m).SIPA = s.SIPA := rfl
@[simp] theorem absorbChunk_DIN (m : List Byte) (s : State) :
    (s.absorbChunk m).DIN = s.DIN := rfl
@[simp] theorem absorbChunk_host (m : List Byte) (s : State) :
    (s.absorbChunk m).host = s.host := rfl
@[simp] theorem absorbChunk_answers (m : List Byte) (s : State) :
    (s.absorbChunk m).answers = s.answers := rfl

@[simp] theorem endHash_S (rest : List Byte) (r : Byte) (s : State) :
    (s.endHash rest r).S = s.S := rfl
@[simp] theorem endHash_BUF (rest : List Byte) (r : Byte) (s : State) :
    (s.endHash rest r).BUF = s.BUF := rfl
@[simp] theorem endHash_CUR (rest : List Byte) (r : Byte) (s : State) :
    (s.endHash rest r).CUR = s.CUR := rfl
@[simp] theorem endHash_KSV (rest : List Byte) (r : Byte) (s : State) :
    (s.endHash rest r).KSV = s.KSV := rfl
@[simp] theorem endHash_V (rest : List Byte) (r : Byte) (s : State) :
    (s.endHash rest r).V = sipFinish (sipAbsorb (finalWord rest (s.LEN + r)) s.V) := rfl
@[simp] theorem endHash_LEN (rest : List Byte) (r : Byte) (s : State) :
    (s.endHash rest r).LEN = s.LEN := rfl
@[simp] theorem endHash_SIPA (rest : List Byte) (r : Byte) (s : State) :
    (s.endHash rest r).SIPA = false := rfl
@[simp] theorem endHash_DIN (rest : List Byte) (r : Byte) (s : State) :
    (s.endHash rest r).DIN = s.DIN := rfl
@[simp] theorem endHash_host (rest : List Byte) (r : Byte) (s : State) :
    (s.endHash rest r).host = s.host := rfl
@[simp] theorem endHash_answers (rest : List Byte) (r : Byte) (s : State) :
    (s.endHash rest r).answers = s.answers := rfl

end Sys2Proof.Machine
end

