-- ==== Sys2Proof/Laws/Ops.lean ====
section
/-! SUPPORT. One lemma per shared operation that says all it can do, so that proofs about commands cite it and do not
unfold the operation. -/

namespace Sys2Proof.Machine

/-! ### Responses and checks -/

theorem answer_eq (dout : List Byte) (s : State) : answer dout s = .next (s.respond .ok dout) := rfl

theorem raise_eq (e : Status) (s : State) : raise e s = .next (s.respond e []) := rfl

theorem require_true (e : Status) (s : State) (rest : Outcome) : require true e s rest = rest := rfl

theorem require_false (e : Status) (s : State) (rest : Outcome) : require false e s rest = raise e s := rfl

/-- A check either passes and the command goes on, or fails and its error is raised. -/
theorem require_cases (check : Bool) (e : Status) (s : State) (rest : Outcome) :
    (check = true ∧ require check e s rest = rest) ∨ (check = false ∧ require check e s rest = raise e s) := by
  cases check <;> simp [require]

/-- A legal command with the payload length its word implies goes on. -/
theorem withPayload_pass {i : Instr} {s : State} (rest : Outcome) (hi : i.wellFormed = true)
    (hl : s.DIN.length = payloadLength i) : withPayload i s rest = rest := by
  simp [withPayload, require, hi, hl]

/-- Any other payload length is refused. -/
theorem withPayload_fail {i : Instr} {s : State} (rest : Outcome) (hl : s.DIN.length ≠ payloadLength i) :
    withPayload i s rest = raise .illegalCommand s := by
  simp [withPayload, require, hl]

/-- An illegal field is refused. -/
theorem withPayload_illFormed {i : Instr} {s : State} (rest : Outcome) (hi : i.wellFormed = false) :
    withPayload i s rest = raise .illegalCommand s := by
  simp [withPayload, require, hi]

/-- The payload check either passes and the command goes on, or `IllegalCommand` is raised. -/
theorem withPayload_cases (i : Instr) (s : State) (rest : Outcome) :
    (i.wellFormed = true ∧ s.DIN.length = payloadLength i ∧ withPayload i s rest = rest) ∨
      withPayload i s rest = raise .illegalCommand s := by
  by_cases hi : i.wellFormed = true
  · by_cases hl : s.DIN.length = payloadLength i
    · exact .inl ⟨hi, hl, withPayload_pass rest hi hl⟩
    · exact .inr (withPayload_fail rest hl)
  · exact .inr (withPayload_illFormed rest (by simpa using hi))

/-- Giving a response changes none of the seven items of R20. -/
theorem sameCore_respond (st : Status) (dout : List Byte) (s : State) : SameCore s (s.respond st dout) :=
  ⟨⟨rfl, rfl, rfl, rfl⟩, rfl, rfl, rfl⟩

/-- A response is one response more, with the payload gone and the host's moves as they were. -/
theorem answered_respond (st : Status) (dout : List Byte) (s : State) :
    Answered s (s.respond st dout) ⟨st.code, dout⟩ :=
  ⟨rfl, rfl, rfl⟩

/-- Presenting a command changes none of the seven items of R20. -/
theorem sameCore_present (din : List Byte) (later : List HostMove) (s : State) :
    SameCore s (s.present din later) :=
  ⟨⟨rfl, rfl, rfl, rfl⟩, rfl, rfl, rfl⟩

/-! ### The keystream buffer and the cursor -/

/-- A buffer byte exists exactly below 64. -/
theorem readBuffer_isSome (addr : Nat) (s : State) : (s.readBuffer addr).isSome = decide (addr < 64) := by
  by_cases h : addr < 64 <;> simp [State.readBuffer, h]

theorem readBuffer_of_lt {addr : Nat} (h : addr < 64) (s : State) : s.readBuffer addr = some s.BUF[addr] := by
  simp [State.readBuffer, h]

theorem readBuffer_of_ge {addr : Nat} (h : 64 ≤ addr) (s : State) : s.readBuffer addr = none := by
  simp [State.readBuffer, h]

/-- After a refill the buffer reads as the new block. -/
theorem readBuffer_refill {addr : Nat} (h : addr < 64) (s : State) :
    s.refill.readBuffer addr = some (keystreamBlock s.S)[addr] := by
  simp [State.readBuffer, h]

theorem materialize_of_fresh {s : State} (h : s.CUR = 64) : s.materialize = s.refill := by
  simp [State.materialize, State.fresh, h]

theorem materialize_of_not_fresh {s : State} (h : s.CUR ≠ 64) : s.materialize = s := by
  have hf : s.fresh = false := by simpa [State.fresh] using h
  simp [State.materialize, hf]

/-- In the SERVING state the byte is `BUF[CUR]`, and only the cursor moves. -/
theorem nextByte_serving {s : State} (h : s.CUR.toNat < 64) :
    s.nextByte = some (s.BUF[s.CUR.toNat], s.advance) := by
  have hc : s.CUR ≠ 64 := by
    intro e
    simp [e] at h
  simp [State.nextByte, materialize_of_not_fresh hc, readBuffer_of_lt h]

/-- In the FRESH state the byte is the first of a new block. -/
theorem nextByte_fresh {s : State} (h : s.CUR = 64) :
    s.nextByte = some ((keystreamBlock s.S)[0], s.refill.advance) := by
  simp [State.nextByte, materialize_of_fresh h, State.readBuffer]

/-- Above 64 there is no byte. -/
theorem nextByte_none {s : State} (h : 64 < s.CUR.toNat) : s.nextByte = none := by
  have hc : s.CUR ≠ 64 := by
    intro e
    simp [e] at h
  simp [State.nextByte, materialize_of_not_fresh hc, readBuffer_of_ge (Nat.le_of_lt h)]

/-- Everything `NextByte` can do. -/
theorem nextByte_cases (s : State) :
    (s.CUR.toNat < 64 ∧ ∃ h : s.CUR.toNat < 64, s.nextByte = some (s.BUF[s.CUR.toNat], s.advance)) ∨
    (s.CUR = 64 ∧ s.nextByte = some ((keystreamBlock s.S)[0], s.refill.advance)) ∨
    (64 < s.CUR.toNat ∧ s.nextByte = none) := by
  rcases Nat.lt_trichotomy s.CUR.toNat 64 with h | h | h
  · exact .inl ⟨h, h, nextByte_serving h⟩
  · have hc : s.CUR = 64 := BitVec.eq_of_toNat_eq (by simpa using h)
    exact .inr (.inl ⟨hc, nextByte_fresh hc⟩)
  · exact .inr (.inr ⟨h, nextByte_none h⟩)

@[simp] theorem xorStream_nil (s : State) : xorStream [] s = some ([], s) := rfl

theorem xorStream_cons (d : Byte) (data : List Byte) (s : State) :
    xorStream (d :: data) s =
      match s.nextByte with
      | none => none
      | some (k, s1) =>
        match xorStream data s1 with
        | none => none
        | some (out, s2) => some ((d ^^^ k) :: out, s2) := rfl

/-- What a stream of at least one byte was made from. -/
theorem xorStream_cons_eq_some {d : Byte} {data out : List Byte} {s t : State}
    (h : xorStream (d :: data) s = some (out, t)) :
    ∃ k s1 rest, s.nextByte = some (k, s1) ∧ xorStream data s1 = some (rest, t) ∧ out = (d ^^^ k) :: rest := by
  cases hb : s.nextByte with
  | none => simp [xorStream_cons, hb] at h
  | some p =>
    cases hx : xorStream data p.2 with
    | none => simp [xorStream_cons, hb, hx] at h
    | some q =>
      simp only [xorStream_cons, hb, hx, Option.some.injEq, Prod.mk.injEq] at h
      exact ⟨p.1, p.2, q.1, rfl, by rw [hx, ← h.2], h.1.symm⟩

@[simp] theorem takeBytes_zero (s : State) : takeBytes 0 s = some ([], s) := rfl

theorem takeBytes_succ (n : Nat) (s : State) :
    takeBytes (n + 1) s =
      match s.nextByte with
      | none => none
      | some (b, s1) =>
        match takeBytes n s1 with
        | none => none
        | some (bs, s2) => some (b :: bs, s2) := rfl

/-- What `n + 1` bytes taken are: one, and then `n`. -/
theorem takeBytes_succ_eq_some {n : Nat} {bs : List Byte} {s t : State} (h : takeBytes (n + 1) s = some (bs, t)) :
    ∃ b s1 rest, s.nextByte = some (b, s1) ∧ takeBytes n s1 = some (rest, t) ∧ bs = b :: rest := by
  cases hb : s.nextByte with
  | none => simp [takeBytes_succ, hb] at h
  | some p =>
    cases hx : takeBytes n p.2 with
    | none => simp [takeBytes_succ, hb, hx] at h
    | some q =>
      simp only [takeBytes_succ, hb, hx, Option.some.injEq, Prod.mk.injEq] at h
      exact ⟨p.1, p.2, q.1, rfl, by rw [hx, ← h.2], h.1.symm⟩

/-! ### The position in the stream -/

/-- Where no block is served, nothing is asked of the counter. -/
theorem counterAhead_of_not_serving {s : State} (h : 64 ≤ s.CUR.toNat) : CounterAhead s :=
  fun hc => absurd hc (Nat.not_lt.mpr h)

/-- The relation depends on the cipher state, the buffer and the cursor alone. -/
theorem counterAhead_congr {s t : State} (hS : s.S = t.S) (hB : s.BUF = t.BUF) (hC : s.CUR = t.CUR) :
    CounterAhead s ↔ CounterAhead t := by
  simp [CounterAhead, counterBefore, hS, hB, hC]

theorem recordedCounter_serving {s : State} (h : s.CUR.toNat < 64) : recordedCounter s = counterBefore s :=
  if_pos h

theorem recordedCounter_fresh {s : State} (h : s.CUR = 64) : recordedCounter s = counterOf s.S := by
  simp [recordedCounter, h]

theorem recordedOffset_serving {s : State} (h : s.CUR.toNat < 64) : recordedOffset s = s.CUR.toNat :=
  if_pos h

theorem recordedOffset_fresh {s : State} (h : s.CUR = 64) : recordedOffset s = 0 := by
  simp [recordedOffset, h]

/-! ### The next move -/

theorem fetch_idle {s : State} (h : s.host = []) : fetch s = .idle := by
  simp [fetch, h]

theorem fetch_reset {s : State} {later : List HostMove} (h : s.host = .reset :: later) :
    fetch s = .reset (s.resetBy later) := by
  simp [fetch, h]

theorem fetch_run {s : State} {cw : W32} {din : List Byte} {later : List HostMove} {i : Instr}
    (h : s.host = .command cw din :: later) (hd : decode cw = .ok i) : fetch s = .run i (s.present din later) := by
  simp [fetch, h, hd]

theorem fetch_illegal {s : State} {cw : W32} {din : List Byte} {later : List HostMove} {e : Reject}
    (h : s.host = .command cw din :: later) (hd : decode cw = .error e) :
    fetch s = .illegal (s.present din later) := by
  simp [fetch, h, hd]

end Sys2Proof.Machine
end

