-- ==== Sys2Proof/Laws/Exec.lean ====
section
/-! SUPPORT. What a command can do, said once: it raises one of four errors, or it stops where `BUF[CUR]` does not exist, or
it succeeds with the effect of its rule. Whole-machine proofs split on `exec_cases` and do not unfold the commands. -/

namespace Sys2Proof.Machine

/-- The result payload and the seven items a command leaves when it succeeds, before the response is given. -/
def Effect : Instr → State → List Byte → State → Prop
  | .perm, s, dout, u => dout = bytesOf (permute20 (wordsOf 16 s.DIN)) ∧ u = s
  | .subkey klen plen, s, dout, u =>
    klen = 32 ∧ plen = 16 ∧ dout = subkey s.keyBytes (s.afterKey 16) ∧ u = s
  | .ksInit klen nlen, s, dout, u =>
    klen = 32 ∧ nlen.toNat ∈ config.nonceLengths ∧ dout = [] ∧
      u = s.initStream s.keyBytes (s.afterKey nlen.toNat) nlen.toNat
  | .ksSetctr, s, dout, u => s.KSV = true ∧ dout = [] ∧ u = s.setCounter s.DIN
  | .ksNext, s, dout, u => s.KSV = true ∧ ∃ b, s.nextByte = some (b, u) ∧ dout = [b]
  | .ksCrypt _, s, dout, u => s.KSV = true ∧ xorStream s.DIN s = some (dout, u)
  | .sipInit, s, dout, u => dout = [] ∧ u = s.beginHash s.DIN
  | .sipBlock, s, dout, u => s.SIPA = true ∧ dout = [] ∧ u = s.absorbChunk s.DIN
  | .sipFinal r, s, dout, u => s.SIPA = true ∧ dout = st64 (sipDigest u.V) ∧ u = s.endHash s.DIN r

/-- The errors a command can raise (R191, R194). -/
def Raisable (e : Status) : Prop :=
  e = .wrongKeyLength ∨ e = .wrongNonceLength ∨ e = .illegalCommand ∨ e = .noContext

/-- One of the three ends of a command. -/
def Ends (i : Instr) (s : State) (o : Outcome) : Prop :=
  (∃ e, Raisable e ∧ o = raise e s) ∨
  (o = .fault .bufferIndex ∧ s.KSV = true ∧ s.DIN.length = payloadLength i ∧
    (i = .ksNext ∧ s.nextByte = none ∨ ∃ n, i = .ksCrypt n ∧ xorStream s.DIN s = none)) ∨
  (∃ dout u, o = answer dout u ∧ i.wellFormed = true ∧ s.DIN.length = payloadLength i ∧ Effect i s dout u)

theorem ends_raise {i : Instr} {s : State} {e : Status} (he : Raisable e) : Ends i s (raise e s) :=
  .inl ⟨e, he, rfl⟩

/-- A command whose remaining checks and effect end well, after the payload check. -/
theorem ends_withPayload {i : Instr} {s : State} {rest : Outcome}
    (h : i.wellFormed = true → s.DIN.length = payloadLength i → Ends i s rest) : Ends i s (withPayload i s rest) := by
  rcases withPayload_cases i s rest with ⟨hi, hl, e⟩ | e
  · rw [e]
    exact h hi hl
  · rw [e]
    exact ends_raise (.inr (.inr (.inl rfl)))

/-- A command whose remaining checks and effect end well, after a check. -/
theorem ends_require {i : Instr} {s : State} {check : Bool} {e : Status} {rest : Outcome} (he : Raisable e)
    (h : check = true → Ends i s rest) : Ends i s (require check e s rest) := by
  rcases require_cases check e s rest with ⟨hc, eq⟩ | ⟨-, eq⟩
  · rw [eq]
    exact h hc
  · rw [eq]
    exact ends_raise he

/-- Everything a command can do. -/
theorem exec_cases (i : Instr) (s : State) : Ends i s (exec i s) := by
  cases i with
  | perm =>
    refine ends_withPayload fun hi hl => .inr (.inr ⟨_, s, rfl, hi, hl, rfl, rfl⟩)
  | subkey klen plen =>
    refine ends_withPayload fun hi hl => ends_require (.inl rfl) fun hk => ends_require (.inr (.inl rfl)) fun hp => ?_
    exact .inr (.inr ⟨_, s, rfl, hi, hl, by simpa using hk, by simpa using hp, rfl, rfl⟩)
  | ksInit klen nlen =>
    refine ends_withPayload fun hi hl => ends_require (.inl rfl) fun hk => ends_require (.inr (.inl rfl)) fun hn => ?_
    exact .inr (.inr ⟨[], _, rfl, hi, hl, by simpa using hk, by simpa using hn, rfl, rfl⟩)
  | ksSetctr =>
    refine ends_withPayload fun hi hl => ends_require (.inr (.inr (.inr rfl))) fun hc => ?_
    exact .inr (.inr ⟨[], _, rfl, hi, hl, hc, rfl, rfl⟩)
  | ksNext =>
    refine ends_withPayload fun hi hl => ends_require (.inr (.inr (.inr rfl))) fun hc => ?_
    cases hb : s.nextByte with
    | none => exact .inr (.inl ⟨rfl, hc, hl, .inl ⟨rfl, hb⟩⟩)
    | some p => exact .inr (.inr ⟨[p.1], p.2, rfl, hi, hl, hc, p.1, hb, rfl⟩)
  | ksCrypt n =>
    refine ends_withPayload fun hi hl => ends_require (.inr (.inr (.inr rfl))) fun hc => ?_
    cases hb : xorStream s.DIN s with
    | none => exact .inr (.inl ⟨rfl, hc, hl, .inr ⟨n, rfl, hb⟩⟩)
    | some p => exact .inr (.inr ⟨p.1, p.2, rfl, hi, hl, hc, hb⟩)
  | sipInit =>
    refine ends_withPayload fun hi hl => .inr (.inr ⟨[], _, rfl, hi, hl, rfl, rfl⟩)
  | sipBlock =>
    refine ends_withPayload fun hi hl => ends_require (.inr (.inr (.inr rfl))) fun hc => ?_
    exact .inr (.inr ⟨[], _, rfl, hi, hl, hc, rfl, rfl⟩)
  | sipFinal r =>
    refine ends_withPayload fun hi hl => ends_require (.inr (.inr (.inr rfl))) fun hc => ?_
    exact .inr (.inr ⟨_, _, rfl, hi, hl, hc, rfl, rfl⟩)

end Sys2Proof.Machine
end

