-- ==== Sys2Proof/Laws/PerInstr.lean ====
section
/-! SUPPORT. Statements about every command as syntax, one lemma per constructor. Family `Lengths`: the payload a command
word implies is at most 510 bytes and its result at most 255 bytes (20_memory.md rule R50). -/

namespace Sys2Proof.Laws.Lengths

/-- `PL` is at most 510 and `RL` at most 255 (R50). -/
def Statement (i : Instr) : Prop :=
  Machine.payloadLength i ≤ 510 ∧ Machine.resultLength i ≤ 255

theorem perm : Statement .perm := by
  simp [Statement, Machine.payloadLength, Machine.resultLength]

theorem subkey (klen plen : Byte) : Statement (.subkey klen plen) := by
  have h1 := klen.isLt
  have h2 := plen.isLt
  simp only [Statement, Machine.payloadLength, Machine.resultLength]
  omega

theorem ksInit (klen nlen : Byte) : Statement (.ksInit klen nlen) := by
  have h1 := klen.isLt
  have h2 := nlen.isLt
  simp only [Statement, Machine.payloadLength, Machine.resultLength]
  omega

theorem ksSetctr : Statement .ksSetctr := by
  simp [Statement, Machine.payloadLength, Machine.resultLength]

theorem ksNext : Statement .ksNext := by
  simp [Statement, Machine.payloadLength, Machine.resultLength]

theorem ksCrypt (n : Byte) : Statement (.ksCrypt n) := by
  have h := n.isLt
  simp only [Statement, Machine.payloadLength, Machine.resultLength]
  omega

theorem sipInit : Statement .sipInit := by
  simp [Statement, Machine.payloadLength, Machine.resultLength]

theorem sipBlock : Statement .sipBlock := by
  simp [Statement, Machine.payloadLength, Machine.resultLength]

theorem sipFinal (r : Byte) : Statement (.sipFinal r) := by
  have h := r.isLt
  simp only [Statement, Machine.payloadLength, Machine.resultLength]
  omega

end Sys2Proof.Laws.Lengths
end

