-- ==== Sys2Proof/Laws/Words.lean ====
section
/-! SUPPORT. The small lemmas of the word layout and of the block counter (10_state.md rules R21 and R22), so that proofs
about cipher states do not unfold `config`, `layout` or `setCounterWords`. -/

namespace Sys2Proof.Machine

/-! ### The parameters -/

@[simp] theorem config_counterLow : config.counterLow = 12 := rfl

@[simp] theorem config_counterHigh : config.counterHigh = 13 := rfl

@[simp] theorem config_sigma : config.sigma = #v[0x61707865, 0x3320646e, 0x79622d32, 0x6b206574] := rfl

@[simp] theorem config_sipc :
    config.sipc = #v[0x736f6d6570736575, 0x646f72616e646f6d, 0x6c7967656e657261, 0x7465646279746573] := rfl

@[simp] theorem config_nonceLengths : config.nonceLengths = [16, 24, 32] := rfl

@[simp] theorem config_maxCrypt : config.maxCrypt = 255 := rfl

/-! ### The layout -/

theorem layout_constants (consts : Vector W32 4) (k : Vector W32 8) (l : Vector W32 4) {j : Nat} (h : j < 4) :
    (layout consts k l)[j]'(by omega) = consts[j]'h := by
  unfold layout
  rw [Vector.getElem_append_left (show j < 4 + 8 by omega), Vector.getElem_append_left h]

theorem layout_key (consts : Vector W32 4) (k : Vector W32 8) (l : Vector W32 4) {j : Nat} (h : j < 8) :
    (layout consts k l)[4 + j]'(by omega) = k[j]'h := by
  unfold layout
  rw [Vector.getElem_append_left (show 4 + j < 4 + 8 by omega),
    Vector.getElem_append_right (show 4 + j < 4 + 8 by omega) (by omega)]
  simp

theorem layout_last (consts : Vector W32 4) (k : Vector W32 8) (l : Vector W32 4) {j : Nat} (h : j < 4) :
    (layout consts k l)[12 + j]'(by omega) = l[j]'h := by
  unfold layout
  rw [Vector.getElem_append_right (show 12 + j < 4 + 8 + 4 by omega) (by omega)]
  simp

/-! ### The counter words -/

/-- What each word is after the counter words are overwritten. -/
theorem getElem_setCounterWords (low high : W32) (x : Vector W32 16) (j : Nat) (h : j < 16) :
    (setCounterWords low high x)[j] = if j = 13 then high else if j = 12 then low else x[j] := by
  show ((x.set 12 low).set 13 high)[j] = _
  rw [Vector.getElem_set, Vector.getElem_set]
  simp only [eq_comm]

theorem setCounterWords_setCounterWords (low high low' high' : W32) (x : Vector W32 16) :
    setCounterWords low high (setCounterWords low' high' x) = setCounterWords low high x := by
  ext j hj
  simp only [getElem_setCounterWords]
  split
  · rfl
  · split <;> rfl

theorem setCounterWords_self (x : Vector W32 16) : setCounterWords x[12] x[13] x = x := by
  ext j hj
  rw [getElem_setCounterWords]
  split
  · subst j; rfl
  · split
    · subst j; rfl
    · rfl

/-- Overwriting the counter words leaves every other word. -/
theorem sameButCounter_setCounterWords (low high : W32) (x : Vector W32 16) :
    SameButCounter (setCounterWords low high x) x := by
  intro j h12 h13
  have h1 : j.val ≠ 12 := fun h => h12 (Fin.ext h)
  have h2 : j.val ≠ 13 := fun h => h13 (Fin.ext h)
  exact (getElem_setCounterWords low high x j.val j.isLt).trans (by rw [if_neg h2, if_neg h1]; rfl)

/-- Cipher states that agree outside the counter words are equal once their counter words are overwritten. -/
theorem setCounterWords_congr {x y : Vector W32 16} (h : SameButCounter x y) (low high : W32) :
    setCounterWords low high x = setCounterWords low high y := by
  ext j hj
  rw [getElem_setCounterWords, getElem_setCounterWords]
  split
  · rfl
  · split
    · rfl
    · rename_i h13 h12
      rw [show x[j] = y[j] from
        h ⟨j, hj⟩ (fun e => h12 (congrArg Fin.val e)) (fun e => h13 (congrArg Fin.val e))]

theorem counterOf_eq (x : Vector W32 16) : counterOf x = x[13].setWidth 64 <<< 32 ||| x[12].setWidth 64 := rfl

/-- The low half of the counter is word 12. -/
theorem counterOf_low (x : Vector W32 16) : (counterOf x).setWidth 32 = x[12] := by
  rw [counterOf_eq]
  generalize x[13] = high
  generalize x[12] = low
  ext j
  simp

/-- The high half of the counter is word 13. -/
theorem counterOf_high (x : Vector W32 16) : (counterOf x >>> 32).setWidth 32 = x[13] := by
  rw [counterOf_eq]
  generalize x[13] = high
  generalize x[12] = low
  ext j hj
  simp [hj, show 32 + j < 64 by omega]

theorem withCounter_counterOf (x : Vector W32 16) : withCounter (counterOf x) x = x := by
  rw [withCounter, counterOf_low, counterOf_high, setCounterWords_self]

theorem withCounter_congr {x y : Vector W32 16} (h : SameButCounter x y) (c : W64) :
    withCounter c x = withCounter c y :=
  setCounterWords_congr h _ _

/-- A refill's increment overwrites the counter words and nothing else. -/
theorem sameButCounter_incrementCounter (x : Vector W32 16) : SameButCounter (incrementCounter x) x := by
  unfold incrementCounter
  exact sameButCounter_setCounterWords _ _ x

end Sys2Proof.Machine
end

