-- ==== Sys2Proof/Tests/Slice0.lean ====
section
/-! SUPPORT. Small tests. Expected values come from spec/: the encodings of 30_encoding.md, the examples of the command
rules and the vectors of 95_test_vectors.md, named at each test. The second half shows, for each statement of
Certificates/Slice0/Obligations.lean with hypotheses, a state and operands that meet them. -/

namespace Sys2Proof.Tests

open Sys2Proof.Machine

/-! ### Helpers -/

/-- `n` bytes written as one hexadecimal number, byte 0 first (R80). -/
def hex (n v : Nat) : List Byte :=
  (List.range n).map fun i => BitVec.ofNat 8 (v / 256 ^ (n - 1 - i))

/-- The `n` bytes `a, a+1, ...`. -/
def count (a n : Nat) : List Byte :=
  (List.range n).map fun i => BitVec.ofNat 8 (a + i)

/-- The reset state with a payload on the port. -/
def ready (din : List Byte) : State := { State.reset with DIN := din }

/-- Words 0 to 11 and the suffix of the context of V-K6: key `00..1f`, nonce `40..57`. -/
def streamWords (low high : W32) : Vector W32 16 :=
  #v[0x61707865, 0x3320646e, 0x79622d32, 0x6b206574, 0xf1381b00, 0x044a65bc, 0x2017f070, 0xcc3e1049,
    0xb18b7db6, 0xa4d2116b, 0xa266db68, 0x7dd453dd, low, high, 0x53525150, 0x57565554]

/-- A cipher context with the words of V-K6 and a given cursor. -/
def stream (cur : Byte) (din : List Byte) : State :=
  { ready din with S := streamWords 0 0, CUR := cur, KSV := true }

/-- The hash state after `SIP.INIT` with key `00..0f` (V-S1). -/
def hashing (din : List Byte) : State :=
  { ready din with
    V := #v[0x7469686173716475, 0x6b617f6d656e6665, 0x6b7f62616d677361, 0x7b6b696e727e6c7b]
    SIPA := true }

/-- The state an outcome leads to. -/
def after : Outcome → Option State
  | .next t => some t
  | .fault _ => none
  | .refused _ => none

/-- The last response given in an outcome. -/
def response (o : Outcome) : Option Response :=
  (after o).bind fun t => t.answers.getLast?

/-! ### Well-formedness: the one check refuses `A[7:3]` of `SIP.FINAL` (R74) -/

theorem test_tail_length_8_is_ill_formed : (Instr.sipFinal 8).wellFormed = false := by decide

theorem test_tail_length_7_is_well_formed : (Instr.sipFinal 7).wellFormed = true := by decide

/-! ### Decoding: words written out from R73, R74 and V-E1 -/

theorem test_decode_perm : decode 0b00000000_00000000_00000000_00000001 = .ok .perm := by decide

theorem test_decode_subkey : decode 0b00000000_00010000_00100000_00000010 = .ok (.subkey 32 16) := by decide

theorem test_decode_ksInit : decode 0b00000000_00011000_00100000_00010000 = .ok (.ksInit 32 24) := by decide

theorem test_decode_ksSetctr : decode 0b00000000_00000000_00000000_00010001 = .ok .ksSetctr := by decide

theorem test_decode_ksNext : decode 0b00000000_00000000_00000000_00010010 = .ok .ksNext := by decide

theorem test_decode_ksCrypt : decode 0b00000000_00000000_11111111_00010011 = .ok (.ksCrypt 255) := by decide

theorem test_decode_sipInit : decode 0b00000000_00000000_00000000_00100000 = .ok .sipInit := by decide

theorem test_decode_sipBlock : decode 0b00000000_00000000_00000000_00100001 = .ok .sipBlock := by decide

theorem test_decode_sipFinal : decode 0b00000000_00000000_00000111_00100010 = .ok (.sipFinal 7) := by decide

/-- V-E2: refused words, by the reason of R75. -/
theorem test_decode_rejects :
    decode 0x00000000 = .error (.unknownOpcode 0x00) ∧ decode 0x00000014 = .error (.unknownOpcode 0x14) ∧
    decode 0x80000001 = .error (.reservedField 0x80) ∧ decode 0x00000101 = .error (.mustBeZero 0x01) ∧
    decode 0x00010013 = .error (.mustBeZero 0x13) ∧ decode 0x00000822 = .error (.mustBeZero 0x22) := by decide

/-! ### The units: functions, errors, cheap cases -/

/-- V-P1. -/
theorem test_quarterRound :
    quarterRound 0 5 10 15
        #v[0x11111111, 0, 0, 0, 0, 0x01020304, 0, 0, 0, 0, 0x9b8d6f43, 0, 0, 0, 0, 0x01234567] =
      #v[0xea2a92f4, 0, 0, 0, 0, 0xcb1cf8ce, 0, 0, 0, 0, 0x4581472e, 0, 0, 0, 0, 0x5881c4bb] := by decide

/-- V-E2: 48 bytes, the wrong split. -/
theorem test_subkey_wrong_split :
    response (exec (.subkey 16 32) (ready (zeros 48))) = some ⟨0x01, []⟩ := by decide

/-- V-K9: the counter is written, the cursor is not. -/
theorem test_ksSetctr :
    (after (exec .ksSetctr (stream 10 (hex 8 0x0500000000000000)))).map (fun t => (t.S, t.CUR)) =
      some (streamWords 5 0, 10) := by decide

/-- V-E3. -/
theorem test_ksSetctr_no_context :
    response (exec .ksSetctr (ready (zeros 8))) = some ⟨0x05, []⟩ := by decide

/-- V-K6: no bytes, no refill. -/
theorem test_ksCrypt_empty :
    after (exec (.ksCrypt 0) (stream 64 [])) = some { stream 64 [] with answers := [⟨0, []⟩] } := by decide

/-- V-S1. -/
theorem test_sipInit :
    after (exec .sipInit (ready (count 0 16))) = some { hashing [] with answers := [⟨0, []⟩] } := by decide

/-- V-E2: a 32-byte hash key. -/
theorem test_sipInit_wrong_length : response (exec .sipInit (ready (zeros 32))) = some ⟨0x04, []⟩ := by decide

/-- R167: after 256 bytes the length is back at 0. -/
theorem test_sipBlock_length_wraps :
    (after (exec .sipBlock { hashing (count 0 8) with LEN := 248 })).map (fun t => t.LEN) = some 0 := by decide

/-! ### Steps -/

/-- P5 line 1, through the port. -/
theorem test_step_no_context :
    response (step { State.reset with host := [.command 0x00000012 []] }) = some ⟨0x05, []⟩ := by decide

/-- P5 line 3: an illegal word, whatever its payload. -/
theorem test_step_illegal :
    response (step { State.reset with host := [.command 0x00000000 [1, 2]] }) = some ⟨0x04, []⟩ := by decide

/-- V-E2: the payload length comes before the key length. -/
theorem test_step_payload_before_key :
    response (step { State.reset with host := [.command 0x000c1f10 (zeros 44)] }) = some ⟨0x04, []⟩ ∧
    response (step { State.reset with host := [.command 0x000c1f10 (zeros 43)] }) = some ⟨0x01, []⟩ := by
  decide

/-- R220: the reset event ends a context and a hash. -/
theorem test_step_reset :
    (after (step { stream 3 [] with SIPA := true, host := [.reset] })).map (fun t => (t.KSV, t.SIPA)) =
      some (false, false) := by decide

/-- The word of a table row, placed as the next command, runs first after reset. -/
theorem test_withFetchWord :
    response (step (State.reset.withFetchWord 32 0x00000020)) = some ⟨0x00, []⟩ := by decide

/-! ### Witnesses: the hypotheses of each statement are met -/

/-- StepRunsTheDecodedCommand. -/
theorem witness_step_runs :
    ({ State.reset with host := [.command 0x00000722 (zeros 7)] } : State).host = .command 0x00000722 (zeros 7) :: [] ∧
    decode 0x00000722 = .ok (.sipFinal 7) ∧ (Instr.sipFinal 7).wellFormed = true := by decide

/-- DecodeEncodeRoundTrip and EncodeDecodeRoundTrip, at the last tail length. -/
theorem witness_round_trips : (Instr.sipFinal 7).wellFormed = true ∧ decode 0x0000ff13 = .ok (.ksCrypt 255) := by
  decide

/-- IllegalWordIsRefused: a word for each way of being illegal. -/
theorem witness_illegal_words :
    IllegalWord 0x01000012 ∧ IllegalWord 0x00000003 ∧ IllegalWord 0x00010012 ∧ IllegalWord 0x00000101 ∧
    IllegalWord 0x00010013 ∧ IllegalWord 0x00000822 ∧ IllegalWord 0x00010022 := by
  exact ⟨.inl (by decide), .inr (.inl (by decide)), .inr (.inr (.inl ⟨by decide, by decide⟩)),
    .inr (.inr (.inl ⟨by decide, by decide⟩)), .inr (.inr (.inr (.inl ⟨by decide, by decide⟩))),
    .inr (.inr (.inr (.inr ⟨by decide, by decide⟩))), .inr (.inr (.inr (.inr ⟨by decide, by decide⟩)))⟩

/-- WrongPayloadLengthIsRefused, one byte short and one too many. -/
theorem witness_wrong_payload :
    (ready (zeros 63)).DIN.length ≠ payloadLength .perm ∧ (ready [0]).DIN.length ≠ payloadLength .ksNext := by
  decide

/-- ResultLength, StatusesByCommand, AccessMatrix: a command that answers, with `ST = 0` and with an error. -/
theorem witness_exec_next :
    exec .sipInit (ready (zeros 16)) = .next (((ready (zeros 16)).beginHash (zeros 16)).respond .ok []) ∧
    exec .sipInit (ready []) = .next ((ready []).respond .illegalCommand []) := by
  exact ⟨rfl, rfl⟩

/-- EveryCommandIsAnsweredOnce, ErrorsChangeNothing, FlagTransitions: a step that raises an error. -/
theorem witness_step_error :
    ∃ t, step { State.reset with host := [.command 0x12 []] } = .next t ∧
      t.answers = State.reset.answers ++ [errorResponse 0x05] ∧ (errorResponse 0x05).st ≠ 0x00 :=
  ⟨_, rfl, rfl, by decide⟩

/-- IdleCoreWaits and ResetEvent. -/
theorem witness_host_moves :
    State.reset.host = [] ∧ ({ State.reset with host := [.reset] } : State).host = .reset :: [] := by decide

/-- LengthErrors: each clause, a length beside an accepted one. -/
theorem witness_lengths :
    ((ready (zeros 47)).DIN.length = (31 : Byte).toNat + (16 : Byte).toNat ∧ (31 : Byte) ≠ 32) ∧
    ((ready (zeros 49)).DIN.length = (32 : Byte).toNat + (17 : Byte).toNat ∧ (17 : Byte) ≠ 16) ∧
    ((ready (zeros 55)).DIN.length = (32 : Byte).toNat + (23 : Byte).toNat ∧
      (23 : Byte) ≠ 16 ∧ (23 : Byte) ≠ 24 ∧ (23 : Byte) ≠ 32) := by decide

/-- CommandsWithoutContextAreRefused: one command of each unit, from reset. -/
theorem witness_no_context :
    (ready []).KSV = false ∧ (ready []).SIPA = false ∧ (ready []).DIN.length = payloadLength .ksNext ∧
    (ready []).DIN.length = payloadLength (.sipFinal 0) ∧ (Instr.sipFinal 0).wellFormed = true ∧
    Instr.ksNext.wellFormed = true := by decide

/-- CounterOverflowIsNeverRaised, second clause; also KsNextResult and CounterIsAheadOfTheBlock's first clause,
FRESH. -/
theorem witness_last_counter :
    let s := { stream 64 [] with S := streamWords 0xffffffff 0xffffffff }
    s.KSV = true ∧ s.CUR = 64 ∧ s.DIN = [] ∧ counterOf s.S = 0xffffffffffffffff := by decide

/-- LittleEndianRoundTrip, the byte clauses. -/
theorem witness_bytes : (zeros 4).length = 4 ∧ (zeros 8).length = 8 := by decide

/-- QuarterRoundStatements. -/
theorem witness_quarterRound :
    (3 : Fin 16) ≠ 4 ∧ (3 : Fin 16) ≠ 9 ∧ (3 : Fin 16) ≠ 14 ∧ (4 : Fin 16) ≠ 9 ∧ (4 : Fin 16) ≠ 14 ∧
    (9 : Fin 16) ≠ 14 := by decide

/-- DisjointQuarterRoundsCommute: the first two quarter-rounds of the table. -/
theorem witness_disjoint : ([0, 4, 8, 12, 1, 5, 9, 13] : List (Fin 16)).Nodup := by decide

/-- PermResult: each clause. -/
theorem witness_perm :
    (ready (zeros 64)).DIN.length = 64 ∧ (ready (zeros 64)).DIN = zeros 64 ∧ (ready (zeros 63)).DIN.length ≠ 64 := by
  decide

/-- SubkeyResult. -/
theorem witness_subkey : (ready (zeros 48)).DIN.length = 48 := by decide

/-- KsInitResult: each nonce length. -/
theorem witness_ksInit :
    (ready (zeros 48)).DIN.length = 32 + (16 : Byte).toNat ∧ (ready (zeros 56)).DIN.length = 32 + (24 : Byte).toNat ∧
    (ready (zeros 64)).DIN.length = 32 + (32 : Byte).toNat := by decide

/-- SubkeyDependsOnTheNoncePrefix: a 16-byte and a 24-byte nonce. -/
theorem witness_shared_prefix :
    ∃ s' t', exec (.ksInit 32 16) (ready (zeros 32 ++ zeros 16 ++ [])) = .next s' ∧
      exec (.ksInit 32 24) (ready (zeros 32 ++ zeros 16 ++ zeros 8)) = .next t' ∧
      s'.answers = (ready []).answers ++ [okResponse []] ∧ t'.answers = (ready []).answers ++ [okResponse []] :=
  ⟨_, _, rfl, rfl, rfl, rfl⟩

/-- NonceIdentities. -/
theorem witness_nonce_parts :
    (zeros 32).length = 32 ∧ (zeros 16).length = 16 ∧ (zeros 8).length = 8 := by decide

/-- KsSetctrResult: each clause. -/
theorem witness_ksSetctr :
    ((stream 64 (zeros 8)).KSV = true ∧ (stream 64 (zeros 8)).DIN.length = 8) ∧
    ((ready (zeros 8)).KSV = false ∧ (ready (zeros 8)).DIN.length = 8) ∧ (ready (zeros 7)).DIN.length ≠ 8 := by
  decide

/-- KsNextResult: the last byte of a block, the FRESH state, and no context. -/
theorem witness_ksNext :
    ((stream 63 []).DIN = [] ∧ (stream 63 []).CUR.toNat < 64 ∧ (stream 63 []).KSV = true) ∧
    ((stream 64 []).CUR = 64 ∧ (stream 64 []).KSV = true) ∧ (ready []).KSV = false := by decide

/-- ByteBeyondTheBufferStops: the first cursor beyond the buffer, both commands. -/
theorem witness_cursor_65 :
    (stream 65 []).KSV = true ∧ 64 < (stream 65 []).CUR.toNat ∧ (stream 65 []).DIN = [] ∧
    (1 : Byte) ≠ 0 ∧ (stream 65 [0]).DIN.length = (1 : Byte).toNat := by decide

/-- DecryptUndoesEncrypt: two states that differ in the hash alone. -/
theorem witness_decrypt :
    SameCipher (stream 64 []) { stream 64 [] with SIPA := true } ∧ (stream 64 []).KSV = true ∧
    (stream 64 []).CUR.toNat ≤ 64 ∧ (zeros 16).length = (16 : Byte).toNat := by decide

/-- KeystreamByPosition and CounterSeek. -/
theorem witness_seek :
    (stream 64 []).KSV = true ∧ (stream 64 []).CUR = 64 ∧ counterOf (stream 64 []).S = 0 := by decide

/-- SeekInMidBlockServesStaleBytes, at the last byte of a block. -/
theorem witness_mid_block :
    (stream 63 []).KSV = true ∧ (stream 63 []).CUR.toNat < 64 ∧ 64 ≤ 64 := by decide

/-- CounterIsAheadOfTheBlock, second clause at its boundaries: one byte more than the buffer holds. -/
theorem witness_refilling_crypt :
    ((stream 64 [0]).KSV = true ∧ (stream 64 [0]).CUR.toNat ≤ 64 ∧ (stream 64 [0]).DIN.length = (1 : Byte).toNat ∧
      64 - (stream 64 [0]).CUR.toNat < (1 : Byte).toNat) ∧
    ((stream 63 [0, 0]).DIN.length = (2 : Byte).toNat ∧ 64 - (stream 63 [0, 0]).CUR.toNat < (2 : Byte).toNat) := by
  decide

/-- One byte of block 0 taken. -/
def midBlock : State :=
  { stream 1 [] with S := streamWords 1 0, BUF := keystreamBlock (streamWords 0 0) }

theorem counterAhead_midBlock : CounterAhead midBlock :=
  fun _ => congrArg keystreamBlock (by decide)

/-- CounterIsAheadOfTheBlock, third and fourth clause. -/
theorem witness_counterAhead :
    Instr.ksNext ≠ .ksSetctr ∧ CounterAhead midBlock ∧ (∃ t, exec .ksNext midBlock = .next t) ∧
    midBlock.KSV = true ∧ midBlock.CUR.toNat < 64 :=
  ⟨by decide, counterAhead_midBlock, ⟨_, rfl⟩, rfl, by decide⟩

/-- RecordedPositionCanBeResumed: one byte of block 0 taken, and a FRESH state. -/
theorem witness_resume :
    (midBlock.KSV = true ∧ midBlock.CUR.toNat ≤ 64 ∧ CounterAhead midBlock ∧
      SameButCounter (stream 64 []).S midBlock.S) ∧
    ((stream 64 []).KSV = true ∧ (stream 64 []).CUR = 64 ∧ CounterAhead (stream 64 []) ∧
      SameButCounter (stream 64 []).S (stream 64 []).S) :=
  ⟨⟨rfl, by decide, counterAhead_midBlock, by decide⟩, rfl, rfl,
    counterAhead_of_not_serving (by decide), fun _ _ _ => rfl⟩

/-- HalfRoundStatements, with the second half-round's operands. -/
theorem witness_halfRound :
    (2 : Fin 4) ≠ 1 ∧ (2 : Fin 4) ≠ 0 ∧ (2 : Fin 4) ≠ 3 ∧ (1 : Fin 4) ≠ 0 ∧ (1 : Fin 4) ≠ 3 ∧ (0 : Fin 4) ≠ 3 ∧
    0 < 17 ∧ 17 < 64 ∧ 0 < 21 ∧ 21 < 64 := by decide

/-- FinalWordLayout, at the longest tail. -/
theorem witness_tail : (zeros 7).length ≤ 7 := by decide

/-- SipInitResult: each clause. -/
theorem witness_sipInit : (ready (zeros 16)).DIN.length = 16 ∧ (ready (zeros 15)).DIN.length ≠ 16 := by decide

/-- SipBlockResult: each clause. -/
theorem witness_sipBlock :
    ((hashing (zeros 8)).SIPA = true ∧ (hashing (zeros 8)).DIN.length = 8) ∧
    ((ready (zeros 8)).SIPA = false ∧ (ready (zeros 8)).DIN.length = 8) ∧ (ready (zeros 9)).DIN.length ≠ 8 := by
  decide

/-- SipFinalResult: each clause, at tail lengths 7 and 8. -/
theorem witness_sipFinal :
    ((hashing (zeros 7)).DIN.length = (7 : Byte).toNat ∧ (7 : Byte).toNat ≤ 7 ∧ (hashing (zeros 7)).SIPA = true) ∧
    ((ready (zeros 7)).DIN.length = (7 : Byte).toNat ∧ (ready (zeros 7)).SIPA = false) ∧
    ((hashing (zeros 8)).DIN.length = (8 : Byte).toNat ∧ 7 < (8 : Byte).toNat) := by decide

/-- SipHashSequenceComputesSipHash24: a message of one chunk and two bytes. -/
theorem witness_siphash :
    (zeros 16).length = 16 ∧
    ({ stream 3 [] with host := siphash24Moves (count 0 10) (zeros 16) ++ [.reset] } : State).host =
      siphash24Moves (count 0 10) (zeros 16) ++ [.reset] := by decide

/-- CipherCommandsIgnoreTheHash and HashCommandsIgnoreTheCipher. -/
theorem witness_units :
    (usesHash .ksNext = false ∧ SameCipher (stream 3 []) { stream 3 [] with LEN := 1 } ∧
      exec .ksNext (stream 3 []) = .next ((stream 3 []).advance.respond .ok [0])) ∧
    (usesCipher (.sipFinal 0) = false ∧ SameHash (hashing []) { hashing [] with CUR := 9 } ∧
      ∃ t, exec (.sipFinal 0) (hashing []) = .next t) :=
  ⟨⟨rfl, by decide, rfl⟩, rfl, by decide, _, rfl⟩

/-- StepKeepsTheInvariant and EveryStepGoesOn: a FRESH context, one move to make. -/
theorem witness_invariant : Inv { stream 64 [] with host := [.command 0x12 []] } := by
  intro _
  refine ⟨by decide, by decide, fun h => absurd h (by decide)⟩

/-- UnspecifiedItemsAreUnobservable: a FRESH context with another `BUF` and `V`. -/
theorem witness_indistinguishable :
    Indistinguishable (stream 64 [])
      { stream 64 [] with BUF := Vector.replicate 64 1, V := Vector.replicate 4 1, LEN := 7 } := by
  unfold Indistinguishable
  decide

/-! ### Vectors of whole commands, evaluated by the kernel -/

/-- V-P3, the `PERM` example. -/
theorem test_perm :
    response (exec .perm (ready
      (hex 64 0x657870616e642033322d62797465206b000102030405060708090a0b0c0d0e0f101112131415161718191a1b1c1d1e1f01000000000000090000004a00000000))) =
    some ⟨0, hex 64 0xab78778363d738e21ee27aa62fbb5059c7d0f2c42fbb62fcfc18a08fb7c75e3fc2715233f38994f2fca8bdeabd6ee482b4129cd1de164eb0cbd0839ea2503c4e⟩ := by
  decide +kernel

/-- V-H1. -/
theorem test_subkey :
    response (exec (.subkey 32 16) (ready (count 0 32 ++ hex 16 0x000000090000004a0000000031415927))) =
      some ⟨0, hex 32 0x82413b4227b27bfed30e42508a877d73a0f9e4d58a74a853c12ec41326d3ecdc⟩ := by decide +kernel

/-- V-K1, the example of R136. -/
theorem test_ksInit :
    (after (exec (.ksInit 32 24) (ready (count 0x80 32 ++ hex 24 0x404142434445464748494a4b4c4d4e4f5051525354555658)))).map
        (fun t => (t.S, t.CUR, t.KSV)) =
      some (#v[0x61707865, 0x3320646e, 0x79622d32, 0x6b206574, 0xc0c08a4a, 0xba226229, 0xaa9f95fe, 0x5ba406be,
        0xe4cea389, 0xe3f6fe44, 0xa55976d7, 0x32ee493f, 0, 0, 0x53525150, 0x58565554], 64, true) := by decide +kernel

/-- V-K5: the last 16 bytes of a 32-byte nonce go into words 12 to 15. -/
theorem test_ksInit_long_nonce :
    (after (exec (.ksInit 32 32) (ready (count 0 32 ++ count 0x40 32)))).map
        (fun t => (t.S[12], t.S[13], t.S[14], t.S[15])) =
      some (0x53525150, 0x57565554, 0x5b5a5958, 0x5f5e5d5c) := by decide +kernel

/-- P5 line 7: byte 0 of block 0, `CUR = 1`, `CTR = 1`. -/
theorem test_ksNext_fresh :
    (after (exec .ksNext (stream 64 []))).map (fun t => (t.answers, t.CUR, t.S)) =
      some ([⟨0, [0x85]⟩], 1, streamWords 1 0) := by decide +kernel

/-- V-K10: the carry into the high counter word. -/
theorem test_ksNext_carry :
    (after (exec .ksNext { stream 64 [] with S := streamWords 0xffffffff 0 })).map (fun t => (t.answers, t.S)) =
      some ([⟨0, [0xbb]⟩], streamWords 0 1) := by decide +kernel

/-- V-K6: "Hello, xchacha!!". -/
theorem test_ksCrypt :
    (after (exec (.ksCrypt 16) (stream 64 (hex 16 0x48656c6c6f2c20786368616368612121)))).map
        (fun t => (t.answers, t.CUR, t.S)) =
      some ([⟨0, hex 16 0xcd8b5d7a5c5103be417d553f3a476c5e⟩], 16, streamWords 1 0) := by decide +kernel

/-- V-S3, the example of R167. -/
theorem test_sipBlock :
    (after (exec .sipBlock (hashing (count 0 8)))).map (fun t => (t.V, t.LEN)) =
      some (#v[0x4a017198de0a59e0, 0x0d52f6f62a4f59a4, 0x634cb3577b01fd3d, 0xa5224d6f55c7d9c8], 8) := by decide +kernel

/-- V-S1, the example of R168. -/
theorem test_sipFinal_empty :
    (after (exec (.sipFinal 0) (hashing []))).map (fun t => (t.answers, t.SIPA)) =
      some ([⟨0, hex 8 0x310e0edd47db6f72⟩], false) := by decide +kernel

/-- V-S3: a 7-byte tail after one chunk. -/
theorem test_sipFinal_tail :
    (after (exec (.sipFinal 7) { hashing (count 8 7) with
        V := #v[0x4a017198de0a59e0, 0x0d52f6f62a4f59a4, 0x634cb3577b01fd3d, 0xa5224d6f55c7d9c8], LEN := 8 })).map
        (fun t => (t.answers, t.V, t.LEN)) =
      some ([⟨0, hex 8 0xe545be4961ca29a1⟩],
        #v[0xf6bcd53893fecff1, 0x54b9964c7ea0d937, 0x1b38329c099bb55a, 0x1814bb89ad7be679], 8) := by decide +kernel

/-- R81: the command words of the assembler. -/
theorem test_assemble :
    assemble (.ksInit (zeros 32) (zeros 24)) = some (.command 0x00182010 (zeros 56)) ∧
    assemble (.sipFinal (zeros 7)) = some (.command 0x00000722 (zeros 7)) ∧
    assemble (.ksCrypt (zeros 256)) = none := by decide +kernel

/-- R80: a line with its expected response. -/
theorem test_parseLine :
    parseLine ['S', 'I', 'P', '.', 'F', 'I', 'N', 'A', 'L', ' ', 't', 'a', 'i', 'l', '=', '2', 'c', '7', 'f', ' ',
        '-', '>', ' ', 'S', 'T', '=', '0', '0', ' ', 'D', 'O', 'U', 'T', '=', 'b', '0'] =
      some (.sipFinal [0x2c, 0x7f], some ⟨0x00, [0xb0]⟩) := by decide +kernel

/-- R86, R88: how the library calls expand. -/
theorem test_expansions :
    (encryptMoves (zeros 256)).length = 2 ∧ encryptMoves [] = [] ∧
    siphash24Moves (count 0 10) (zeros 16) =
      [.command 0x20 (zeros 16), .command 0x21 (count 0 8), .command 0x222 (count 8 2)] := by decide +kernel

/-- KsCryptResult and KsCryptRefills: 255 bytes from a FRESH generator, no bytes, and no context. -/
theorem witness_ksCrypt :
    ((stream 64 (zeros 255)).DIN.length = (255 : Byte).toNat ∧ (stream 64 (zeros 255)).KSV = true ∧
      (stream 64 (zeros 255)).CUR.toNat ≤ 64 ∧ (255 : Byte) ≠ 0) ∧
    ((stream 64 []).DIN.length = (0 : Byte).toNat ∧ (stream 64 []).KSV = true) ∧
    ((ready [0]).DIN.length = (1 : Byte).toNat ∧ (ready [0]).KSV = false) := by decide +kernel

/-- SplittingACryptChangesNothing, at the longest total. -/
theorem witness_split :
    (zeros 200).length = (200 : Byte).toNat ∧ (zeros 55).length = (55 : Byte).toNat ∧
    (200 : Byte).toNat + (55 : Byte).toNat < 256 ∧ (stream 64 []).KSV = true ∧ (stream 64 []).CUR.toNat ≤ 64 := by
  decide +kernel

/-- EncryptExpansion: two commands and a later move. -/
theorem witness_encrypt :
    ({ stream 64 [] with host := encryptMoves (zeros 256) ++ [.reset] } : State).host =
      encryptMoves (zeros 256) ++ [.reset] ∧ (stream 64 []).KSV = true ∧ (stream 64 []).CUR.toNat ≤ 64 := by
  decide +kernel

end Sys2Proof.Tests
end

section
/-! SUPPORT. The little-endian conversions byte by byte (00_scope.md rule R12), and the words of a payload that is cut into
pieces (20_memory.md rule R52). -/

namespace Sys2Proof.Machine

/-! ### Bytes of a word -/

/-- A word is known by its bytes. -/
theorem eq_of_byteOf_eq {w n : Nat} (hw : w = 8 * n) {x y : BitVec w} (h : ∀ j < n, byteOf x j = byteOf y j) :
    x = y := by
  refine BitVec.eq_of_getLsbD_eq fun k hk => ?_
  have hbit : (byteOf x (k / 8)).getLsbD (k % 8) = (byteOf y (k / 8)).getLsbD (k % 8) := by
    rw [h (k / 8) (by omega)]
  have hpos : 8 * (k / 8) + k % 8 = k := Nat.div_add_mod k 8
  simpa [byteOf, hpos, Nat.mod_lt] using hbit

theorem byteOf_leWord_cons_zero {w : Nat} (hw : 8 ≤ w) (b : Byte) (rest : List Byte) :
    byteOf (leWord w (b :: rest)) 0 = b := by
  ext k hk
  simp [byteOf, leWord, hk, show k < w by omega]

theorem byteOf_leWord_cons_succ {w j : Nat} (hj : 8 * (j + 2) ≤ w) (b : Byte) (rest : List Byte) :
    byteOf (leWord w (b :: rest)) (j + 1) = byteOf (leWord w rest) j := by
  refine BitVec.eq_of_getLsbD_eq fun k hk => ?_
  have hsub : 8 * (j + 1) + k - 8 = 8 * j + k := by omega
  simp only [byteOf, leWord, BitVec.getLsbD_extractLsb', BitVec.getLsbD_or, BitVec.getLsbD_setWidth,
    BitVec.getLsbD_shiftLeft, hsub, getLsbD_byte b (k := 8 * (j + 1) + k) (by omega)]
  simp [show 8 * (j + 1) + k < w by omega, show ¬ 8 * (j + 1) + k < 8 by omega]

/-- Byte `j` of a word made from a byte string is byte `j` of the string. -/
theorem byteOf_leWord {w : Nat} (b : List Byte) (j : Nat) (hj : j < b.length) (hw : 8 * (j + 1) ≤ w) :
    byteOf (leWord w b) j = b[j] := by
  induction b generalizing j with
  | nil => simp at hj
  | cons x rest ih =>
    cases j with
    | zero => exact byteOf_leWord_cons_zero (by omega) x rest
    | succ j =>
      rw [byteOf_leWord_cons_succ hw, ih j (by simpa using hj) (by omega), List.getElem_cons_succ]

@[simp] theorem length_st32 (x : W32) : (st32 x).length = 4 := rfl

@[simp] theorem length_st64 (x : W64) : (st64 x).length = 8 := rfl

theorem getElem_st32 (x : W32) (j : Nat) (h : j < (st32 x).length) : (st32 x)[j] = byteOf x j := by
  match j, h with
  | 0, _ | 1, _ | 2, _ | 3, _ => rfl

theorem getElem_st64 (x : W64) (j : Nat) (h : j < (st64 x).length) : (st64 x)[j] = byteOf x j := by
  match j, h with
  | 0, _ | 1, _ | 2, _ | 3, _ | 4, _ | 5, _ | 6, _ | 7, _ => rfl

@[simp] theorem le32_st32 (x : W32) : le32 (st32 x) = x :=
  eq_of_byteOf_eq (n := 4) rfl fun j hj =>
    (byteOf_leWord (st32 x) j hj (by omega)).trans (getElem_st32 x j hj)

@[simp] theorem le64_st64 (x : W64) : le64 (st64 x) = x :=
  eq_of_byteOf_eq (n := 8) rfl fun j hj =>
    (byteOf_leWord (st64 x) j hj (by omega)).trans (getElem_st64 x j hj)

theorem st32_le32 {b : List Byte} (h : b.length = 4) : st32 (le32 b) = b :=
  List.ext_getElem h.symm fun j hj hb =>
    (getElem_st32 _ j hj).trans (byteOf_leWord b j hb (by omega))

theorem st64_le64 {b : List Byte} (h : b.length = 8) : st64 (le64 b) = b :=
  List.ext_getElem h.symm fun j hj hb =>
    (getElem_st64 _ j hj).trans (byteOf_leWord b j hb (by omega))

/-! ### Words of a byte string -/

/-- Word `i` of a byte string, `LE32(b[4i..4i+3])` (R52). -/
def wordAt (b : List Byte) (i : Nat) : W32 := le32 (slice b (4 * i) 4)

@[simp] theorem getElem_wordsOf (n : Nat) (b : List Byte) (i : Nat) (h : i < n) : (wordsOf n b)[i] = wordAt b i := by
  simp [wordsOf, wordAt]

/-- A piece of a piece is a piece. -/
theorem slice_slice (b : List Byte) {i n j m : Nat} (h : j + m ≤ n) :
    slice (slice b i n) j m = slice b (i + j) m := by
  simp only [slice, List.drop_take, List.drop_drop, List.take_take]
  rw [Nat.min_eq_left (by omega)]

theorem wordAt_slice (b : List Byte) {k n i : Nat} (h : 4 * i + 4 ≤ n) :
    wordAt (slice b (4 * k) n) i = wordAt b (k + i) := by
  rw [wordAt, slice_slice b h, ← Nat.mul_add, wordAt]

theorem wordAt_zeros_append_of_lt {k i : Nat} (h : i < k) (b : List Byte) : wordAt (zeros (4 * k) ++ b) i = 0 := by
  have hslice : slice (zeros (4 * k) ++ b) (4 * i) 4 = zeros 4 := by
    simp only [slice, zeros]
    rw [List.drop_append_of_le_length (by simp; omega), List.drop_replicate,
      List.take_append_of_le_length (by simp; omega), List.take_replicate, Nat.min_eq_left (by omega)]
  rw [wordAt, hslice]
  rfl

theorem wordAt_zeros_append_add (k i : Nat) (b : List Byte) : wordAt (zeros (4 * k) ++ b) (k + i) = wordAt b i := by
  have hdrop : (zeros (4 * k) ++ b).drop (4 * (k + i)) = b.drop (4 * i) := by
    rw [show 4 * (k + i) = (zeros (4 * k)).length + 4 * i by simp [zeros]; omega, List.drop_length_add_append]
  rw [wordAt, slice, hdrop, wordAt, slice]

/-- Word `i` of serialized words is word `i`. -/
theorem wordAt_flatMap_st32 (l : List W32) (i : Nat) (h : i < l.length) : wordAt (l.flatMap st32) i = l[i] := by
  induction l generalizing i with
  | nil => simp at h
  | cons x rest ih =>
    rw [List.flatMap_cons]
    cases i with
    | zero =>
      have hslice : slice (st32 x ++ rest.flatMap st32) 0 4 = st32 x := List.take_left' (length_st32 x)
      rw [wordAt, Nat.mul_zero, hslice, le32_st32, List.getElem_cons_zero]
    | succ i =>
      have hdrop : (st32 x ++ rest.flatMap st32).drop (4 * (i + 1)) = (rest.flatMap st32).drop (4 * i) := by
        rw [show 4 * (i + 1) = (st32 x).length + 4 * i by simp; omega, List.drop_length_add_append]
      rw [wordAt, slice, hdrop, List.getElem_cons_succ, ← ih i (by simpa using h), wordAt, slice]

/-- Serialized words read back as the words (R52). -/
theorem wordsOf_bytesOf {n : Nat} (x : Vector W32 n) : wordsOf n (bytesOf x) = x := by
  ext i hi
  simp [bytesOf, wordAt_flatMap_st32, hi]

/-! ### Settled -/

/-- Settles O20: a word is known by its bytes, and byte `j` of a word made from a byte string is byte `j` of the string. -/
theorem littleEndianRoundTrip : Obligations.LittleEndianRoundTrip :=
  ⟨le32_st32, le64_st64, fun _ => st32_le32, fun _ => st64_le64⟩

end Sys2Proof.Machine
end

section
/-! SUPPORT. The step of a command, the permutation's quarter-rounds, and the results of `SUBKEY`, `KS.INIT` and
`SIP.INIT` for accepted operands (00_scope.md rules R5, R8, R9 and R10). -/

namespace Sys2Proof.Machine

/-! ### The step of a command -/

theorem step_run {s : State} {cw : W32} {din : List Byte} {later : List HostMove} {i : Instr}
    (h : s.host = .command cw din :: later) (hd : decode cw = .ok i) : step s = exec i (s.present din later) := by
  simp only [step, fetch_run h hd]

/-- Settles O6: the next move is fetched as that command, and `present` is the payload and the later moves. -/
theorem stepRunsTheDecodedCommand : Obligations.StepRunsTheDecodedCommand := by
  intro s cw din later i hhost hdecode _
  exact step_run hhost hdecode

/-! ### The permutation -/

/-- One iteration is the quarter-rounds of R9's table, the columns and then the diagonals. -/
theorem iteration_eq (x : Vector W32 16) :
    iteration x =
      quarterRound 3 4 9 14 (quarterRound 2 7 8 13 (quarterRound 1 6 11 12 (quarterRound 0 5 10 15
        (quarterRound 3 7 11 15 (quarterRound 2 6 10 14 (quarterRound 1 5 9 13 (quarterRound 0 4 8 12 x))))))) := by
  simp only [iteration, config, quarterRoundTable, Vector.toList_mk, quarterRounds]

theorem permute20_eq (x : Vector W32 16) : permute20 x = iteration^[10] x := by
  unfold permute20
  rfl

/-- Settles O22: `permute20` is the tenfold `iteration`, and one iteration is the table written out. -/
theorem permutationIsTenIterations : Obligations.PermutationIsTenIterations := by
  intro x
  simp only [permute20_eq, ← iteration_eq]

/-! ### The subkey -/

/-- The 16 words of the layout, one by one (R21). -/
theorem layout_eq (consts : Vector W32 4) (key : Vector W32 8) (last : Vector W32 4) :
    layout consts key last =
      #v[consts[0], consts[1], consts[2], consts[3], key[0], key[1], key[2], key[3], key[4], key[5], key[6], key[7],
        last[0], last[1], last[2], last[3]] := by
  refine Vector.ext fun j hj => ?_
  rcases Nat.lt_or_ge j 4 with h4 | h4
  · rw [layout_constants consts key last h4]
    interval_cases j <;> rfl
  rcases Nat.lt_or_ge j 12 with h12 | h12
  · obtain ⟨i, rfl⟩ := Nat.exists_eq_add_of_le h4
    have hi : i < 8 := by omega
    rw [layout_key consts key last hi]
    interval_cases i <;> rfl
  · obtain ⟨i, rfl⟩ := Nat.exists_eq_add_of_le h12
    have hi : i < 4 := by omega
    rw [layout_last consts key last hi]
    interval_cases i <;> rfl

/-- The constants and then the first 12 words of a payload (R120). -/
def seedWords (din : List Byte) : Vector W32 16 :=
  #v[0x61707865, 0x3320646e, 0x79622d32, 0x6b206574,
    wordAt din 0, wordAt din 1, wordAt din 2, wordAt din 3, wordAt din 4, wordAt din 5, wordAt din 6, wordAt din 7,
    wordAt din 8, wordAt din 9, wordAt din 10, wordAt din 11]

/-- The two operands of `SubkeySeed` stand one after the other in the payload, so the seed is its words in order. -/
theorem subkeySeed_payload (din : List Byte) : subkeySeed (slice din 0 32) (slice din 32 16) = seedWords din := by
  have hkey (i : Nat) (h : 4 * i + 4 ≤ 32) : wordAt (slice din 0 32) i = wordAt din i := by
    simpa using wordAt_slice din (k := 0) h
  have hpre (i : Nat) (h : 4 * i + 4 ≤ 16) : wordAt (slice din 32 16) i = wordAt din (8 + i) :=
    wordAt_slice din (k := 8) h
  simp [subkeySeed, seedWords, layout_eq, hkey, hpre]

theorem exec_subkey (klen plen : Byte) (s : State) : exec (.subkey klen plen) s = execSubkey klen plen s := rfl

/-- `SUBKEY` with the lengths R122 accepts. -/
theorem exec_subkey_accepted {s : State} (h : s.DIN.length = 48) :
    exec (.subkey 32 16) s = answer (subkey s.keyBytes (s.afterKey 16)) s := by
  rw [exec_subkey, execSubkey, withPayload_pass _ rfl h]
  rfl

/-- Eight words as bytes. -/
theorem bytesOf_outerWords (y : Vector W32 16) :
    bytesOf (outerWords y) =
      st32 y[0] ++ st32 y[1] ++ st32 y[2] ++ st32 y[3] ++ st32 y[12] ++ st32 y[13] ++ st32 y[14] ++ st32 y[15] :=
  rfl

/-- Settles O26: the payload is accepted, its seed is the constants and its words, and the outer words are serialized. -/
theorem subkeyResult : Obligations.SubkeyResult := by
  intro s hlen w y
  have hout : subkey s.keyBytes (s.afterKey 16) = bytesOf (outerWords (permute20 (seedWords s.DIN))) := by
    rw [subkey, State.keyBytes, State.afterKey, subkeySeed_payload]
  rw [exec_subkey_accepted hlen, answer_eq, hout, bytesOf_outerWords]
  rfl

/-! ### The keystream set-up -/

theorem exec_ksInit (klen nlen : Byte) (s : State) : exec (.ksInit klen nlen) s = execKsInit klen nlen s := rfl

/-- `KS.INIT` with the lengths R136 accepts. -/
theorem exec_ksInit_accepted {s : State} {nlen : Byte} (hn : nlen.toNat ∈ config.nonceLengths)
    (h : s.DIN.length = 32 + nlen.toNat) :
    exec (.ksInit 32 nlen) s = answer [] (s.initStream s.keyBytes (s.afterKey nlen.toNat) nlen.toNat) := by
  have hc : config.nonceLengths.contains nlen.toNat = true := List.contains_iff_mem.mpr hn
  rw [exec_ksInit, execKsInit, withPayload_pass _ rfl h, hc]
  rfl

/-- The derived key as words: no serialization is left of it (R121, R134). -/
theorem wordsOf_subkey (key pre : List Byte) :
    wordsOf 8 (subkey key pre) = outerWords (permute20 (subkeySeed key pre)) := by
  rw [subkey, wordsOf_bytesOf]

/-- The table of R135 for a nonce of `4 + m` words: zeros, then the words after the first 4. -/
theorem wordAt_tail (nonce : List Byte) {m i : Nat} (hm : m ≤ 4) (hi : i < 4) :
    wordAt (tail nonce (16 + 4 * m)) i = if i < 4 - m then 0 else wordAt nonce (m + i) := by
  have htail : tail nonce (16 + 4 * m) = zeros (4 * (4 - m)) ++ slice nonce (4 * 4) (4 * m) := by
    rw [tail, Nat.add_sub_cancel_left, show 16 - 4 * m = 4 * (4 - m) by omega]
  rw [htail]
  split
  · exact wordAt_zeros_append_of_lt ‹_› _
  · obtain ⟨j, rfl⟩ : ∃ j, i = (4 - m) + j := ⟨i - (4 - m), by omega⟩
    rw [wordAt_zeros_append_add, wordAt_slice nonce (by omega), show m + (4 - m + j) = 4 + j by omega]

/-- Word `i` of the last quadrant that `KS.INIT` makes from a payload whose nonce, after the key, has `4 + m` words: the
counter words and then the suffix words (R135). -/
def counterAndSuffix (din : List Byte) (m i : Nat) : W32 :=
  if i < 4 - m then 0 else wordAt din (8 + (m + i))

theorem wordsOf_tail (s : State) {m : Nat} (hm : m ≤ 4) :
    wordsOf 4 (tail (s.afterKey (16 + 4 * m)) (16 + 4 * m)) =
      Vector.ofFn fun i : Fin 4 => counterAndSuffix s.DIN m i := by
  refine Vector.ext fun i hi => ?_
  rw [getElem_wordsOf, Vector.getElem_ofFn, wordAt_tail _ hm hi, State.afterKey, wordAt_slice s.DIN (k := 8) (by omega),
    counterAndSuffix]

/-- The cipher state `KS.INIT` leaves for a nonce of `4 + m` words after the key (R134, R135, R136). -/
theorem initStream_S_payload (s : State) {m : Nat} (hm : m ≤ 4) :
    let y := permute20 (seedWords s.DIN)
    (s.initStream s.keyBytes (s.afterKey (16 + 4 * m)) (16 + 4 * m)).S =
      (#v[0x61707865, 0x3320646e, 0x79622d32, 0x6b206574, y[0], y[1], y[2], y[3], y[12], y[13], y[14], y[15],
        counterAndSuffix s.DIN m 0, counterAndSuffix s.DIN m 1, counterAndSuffix s.DIN m 2,
        counterAndSuffix s.DIN m 3] : Vector W32 16) := by
  have hfirst : slice (s.afterKey (16 + 4 * m)) 0 16 = slice s.DIN 32 16 := slice_slice s.DIN (by omega)
  rw [initStream_S, hfirst, wordsOf_subkey, wordsOf_tail s hm, State.keyBytes, subkeySeed_payload, layout_eq]
  rfl

/-- `KS.INIT` writes `S`, `CUR` and `KSV` and no other item (R134, R136). -/
theorem initStream_eq (key nonce : List Byte) (nlen : Nat) (s : State) :
    s.initStream key nonce nlen = { s with S := (s.initStream key nonce nlen).S, CUR := 64, KSV := true } := rfl

/-- `KS.INIT` with an accepted nonce of `4 + m` words: the next state written out. -/
theorem exec_ksInit_payload {s : State} {nlen : Byte} {m : Nat} (hm : m ≤ 4)
    (hnlen : nlen.toNat = 16 + 4 * m) (hn : nlen.toNat ∈ config.nonceLengths) (h : s.DIN.length = 32 + nlen.toNat) :
    let y := permute20 (seedWords s.DIN)
    exec (.ksInit 32 nlen) s =
      .next { s with
        S := #v[0x61707865, 0x3320646e, 0x79622d32, 0x6b206574,
          y[0], y[1], y[2], y[3], y[12], y[13], y[14], y[15],
          counterAndSuffix s.DIN m 0, counterAndSuffix s.DIN m 1, counterAndSuffix s.DIN m 2, counterAndSuffix s.DIN m 3]
        CUR := 64
        KSV := true
        DIN := []
        answers := s.answers ++ [okResponse []] } := by
  rw [exec_ksInit_accepted hn h, hnlen, answer_eq, initStream_eq, initStream_S_payload s hm]
  rfl

/-- Settles O27: the three nonce lengths are 4, 6 and 8 words, and `counterAndSuffix` is the table at each. -/
theorem ksInitResult : Obligations.KsInitResult := by
  rintro nlen s (rfl | rfl | rfl) hlen
  · exact exec_ksInit_payload (m := 0) (by decide) rfl (by decide) hlen
  · exact exec_ksInit_payload (m := 2) (by decide) rfl (by decide) hlen
  · exact exec_ksInit_payload (m := 4) (by decide) rfl (by decide) hlen

/-! ### The hash set-up -/

theorem exec_sipInit (s : State) : exec .sipInit s = execSipInit s := rfl

/-- Settles O49: the payload check passes or fails on the length alone, and `beginHash` writes `V`, `LEN` and `SIPA`. -/
theorem sipInitResult : Obligations.SipInitResult := by
  intro s
  constructor
  · intro hlen k0 k1
    rw [exec_sipInit, execSipInit, withPayload_pass _ rfl hlen]
    rfl
  · intro hlen
    rw [exec_sipInit, execSipInit, withPayload_fail _ hlen]
    rfl

end Sys2Proof.Machine
end

section
/-! SUPPORT. What a command that goes on, a keystream byte and a step can do, each said once as a case split on the state
that follows; and the block counter under increment and overwriting (10_state.md rules R22, R24 and R33). -/

namespace Sys2Proof.Machine

/-! ### The counter words -/

theorem SameButCounter.trans {x y z : Vector W32 16} (hxy : SameButCounter x y) (hyz : SameButCounter y z) :
    SameButCounter x z :=
  fun j h12 h13 => (hxy j h12 h13).trans (hyz j h12 h13)

/-- Words 0 to 3 are not counter words. -/
theorem SameButCounter.constants {x y : Vector W32 16} (h : SameButCounter x y) (i : Fin 4) : x[i.val] = y[i.val] :=
  h ⟨i, by omega⟩ (by simp [Fin.ext_iff]; omega) (by simp [Fin.ext_iff]; omega)

/-- Two words side by side, as one number. -/
theorem toNat_joinWords (high low : W32) :
    (high.setWidth 64 <<< 32 ||| low.setWidth 64).toNat = high.toNat * 2 ^ 32 + low.toNat := by
  have hhigh := high.isLt
  have hlow := low.isLt
  rw [BitVec.toNat_or, BitVec.toNat_shiftLeft, BitVec.toNat_setWidth_of_le (by decide),
    BitVec.toNat_setWidth_of_le (by decide), Nat.shiftLeft_eq, Nat.mod_eq_of_lt (by omega), ← Nat.shiftLeft_eq,
    ← Nat.shiftLeft_add_eq_or_of_lt hlow]

/-- The two counter words as one number (R22). -/
theorem toNat_counterOf (x : Vector W32 16) : (counterOf x).toNat = x[13].toNat * 2 ^ 32 + x[12].toNat :=
  toNat_joinWords x[13] x[12]

theorem counterOf_withCounter (c : W64) (x : Vector W32 16) : counterOf (withCounter c x) = c := by
  refine BitVec.eq_of_toNat_eq ?_
  have hc := c.isLt
  rw [toNat_counterOf, withCounter, getElem_setCounterWords, getElem_setCounterWords]
  simp only [↓reduceIte, BitVec.toNat_setWidth, BitVec.toNat_ushiftRight, Nat.shiftRight_eq_div_pow,
    show (12 : Nat) ≠ 13 by decide]
  omega

theorem incrementCounter_eq (x : Vector W32 16) :
    incrementCounter x = setCounterWords (x[12] + 1) (if x[12] + 1 = 0 then x[13] + 1 else x[13]) x := by
  unfold incrementCounter
  simp [counterCarry]

/-- The increment adds 1 to the whole counter, modulo 2^64 (R132). -/
theorem counterOf_incrementCounter (x : Vector W32 16) : counterOf (incrementCounter x) = counterOf x + 1 := by
  refine BitVec.eq_of_toNat_eq ?_
  have hlow := x[12].isLt
  have hhigh := x[13].isLt
  rw [BitVec.toNat_add, toNat_counterOf, toNat_counterOf, incrementCounter_eq, getElem_setCounterWords,
    getElem_setCounterWords]
  simp only [↓reduceIte, show (12 : Nat) ≠ 13 by decide]
  have hcarry : x[12] + 1 = 0 ↔ x[12].toNat = 2 ^ 32 - 1 := by
    rw [← BitVec.toNat_inj, BitVec.toNat_add]
    simp
    omega
  split <;> rename_i h <;> rw [hcarry] at h <;> simp [BitVec.toNat_add] <;> omega

/-- A block's counter value in the counter words of the state after the refill gives the state before it back. -/
theorem withCounter_incrementCounter (x : Vector W32 16) : withCounter (counterOf x) (incrementCounter x) = x := by
  rw [withCounter_congr (sameButCounter_incrementCounter x), withCounter_counterOf]

/-! ### What a command that goes on leaves -/

/-- A command that goes on has raised an error, and only the port is changed, or has succeeded with its effect. -/
theorem exec_eq_next {i : Instr} {s t : State} (h : exec i s = .next t) :
    (∃ e, t = s.respond e []) ∨
      ∃ dout u, t = u.respond .ok dout ∧ s.DIN.length = payloadLength i ∧ Effect i s dout u := by
  rcases exec_cases i s with ⟨e, -, hraise⟩ | ⟨hfault, -⟩ | ⟨dout, u, hanswer, -, hlen, heffect⟩
  · rw [hraise, raise_eq, Host.Outcome.next.injEq] at h
    exact .inl ⟨e, h.symm⟩
  · simp [hfault] at h
  · rw [hanswer, answer_eq, Host.Outcome.next.injEq] at h
    exact .inr ⟨dout, u, h.symm, hlen, heffect⟩

/-- Everything a step that goes on can do: wait, reset, refuse a command with only the port changed, or complete one. -/
theorem step_eq_next {s t : State} (h : step s = .next t) :
    t = s ∨
    (∃ later, s.host = .reset :: later ∧ t = s.resetBy later) ∨
    ∃ cw din later, s.host = .command cw din :: later ∧
      ((∃ e, t = (s.present din later).respond e []) ∨
        ∃ i dout u, decode cw = .ok i ∧ t = u.respond .ok dout ∧ Effect i (s.present din later) dout u) := by
  rcases hhost : s.host with _ | ⟨_ | ⟨cw, din⟩, later⟩
  · simp only [step, fetch_idle hhost, Host.Outcome.next.injEq] at h
    exact .inl h.symm
  · simp only [step, fetch_reset hhost, Host.Outcome.next.injEq] at h
    exact .inr (.inl ⟨later, rfl, h.symm⟩)
  · refine .inr (.inr ⟨cw, din, later, rfl, ?_⟩)
    cases hd : decode cw with
    | error e =>
      simp only [step, fetch_illegal hhost hd, raise_eq, Host.Outcome.next.injEq] at h
      exact .inl ⟨_, h.symm⟩
    | ok i =>
      rw [step_run hhost hd] at h
      rcases exec_eq_next h with herror | ⟨dout, u, ht, -, heffect⟩
      · exact .inl herror
      · exact .inr ⟨i, dout, u, rfl, ht, heffect⟩

/-! ### What a keystream byte leaves -/

/-- A byte comes from a block being served or from a new block. -/
theorem nextByte_eq_some {s t : State} {b : Byte} (h : s.nextByte = some (b, t)) :
    (s.CUR.toNat < 64 ∧ t = s.advance) ∨ (s.CUR = 64 ∧ t = s.refill.advance) := by
  rcases nextByte_cases s with ⟨hcur, _, hb⟩ | ⟨hcur, hb⟩ | ⟨-, hb⟩ <;> rw [hb] at h
  · exact .inl ⟨hcur, (congrArg Prod.snd (Option.some.inj h)).symm⟩
  · exact .inr ⟨hcur, (congrArg Prod.snd (Option.some.inj h)).symm⟩
  · exact absurd h (by simp)

/-- What every keystream byte keeps, any number of bytes keep. -/
theorem xorStream_preserves {P : State → Prop} (hbyte : ∀ s b t, P s → s.nextByte = some (b, t) → P t)
    {data out : List Byte} {s t : State} (hs : P s) (h : xorStream data s = some (out, t)) : P t := by
  induction data generalizing s out with
  | nil =>
    simp only [xorStream_nil, Option.some.injEq, Prod.mk.injEq] at h
    exact h.2 ▸ hs
  | cons d data ih =>
    obtain ⟨b, s1, rest, hb, hrest, -⟩ := xorStream_cons_eq_some h
    exact ih (hbyte s b s1 hs hb) hrest

theorem toNat_CUR_advance {s : State} (h : s.CUR.toNat < 64) : s.advance.CUR.toNat = s.CUR.toNat + 1 := by
  rw [advance_CUR, BitVec.toNat_add]
  simp
  omega

end Sys2Proof.Machine
end

section
/-! SUPPORT. The invariant of the cipher context (10_state.md rule R35): holds at reset, kept by every step. -/

namespace Sys2Proof.Machine

/-- The invariant depends on unit K alone, and not on its counter words. -/
theorem Inv.of_sameButCounter {s t : State} (h : Inv s) (hS : SameButCounter t.S s.S) (hBUF : t.BUF = s.BUF)
    (hCUR : t.CUR = s.CUR) (hKSV : t.KSV = s.KSV) : Inv t := by
  intro hk
  obtain ⟨hcur, hsigma, hblock⟩ := h (hKSV ▸ hk)
  rw [hCUR, hBUF]
  refine ⟨hcur, fun i => ?_, fun hserving => ?_⟩
  · exact (hS.constants i).trans (hsigma i)
  · obtain ⟨c, hc⟩ := hblock hserving
    exact ⟨c, by rw [hc, withCounter_congr hS]⟩

theorem Inv.of_sameCipher {s t : State} (h : Inv s) (hst : SameCipher s t) : Inv t := by
  obtain ⟨hS, hBUF, hCUR, hKSV⟩ := hst
  exact h.of_sameButCounter (fun _ _ _ => by rw [hS]) hBUF.symm hCUR.symm hKSV.symm

/-- No context, nothing to hold. -/
theorem inv_of_no_context {s : State} (h : s.KSV = false) : Inv s :=
  fun hk => absurd hk (by simp [h])

/-- A context that was just set up is FRESH. -/
theorem inv_initStream (key nonce : List Byte) (nlen : Nat) (s : State) : Inv (s.initStream key nonce nlen) := by
  intro _
  refine ⟨by simp, fun i => ?_, fun h => absurd h (by simp)⟩
  rw [initStream_S]
  exact layout_constants _ _ _ i.isLt

theorem inv_advance {s : State} (h : Inv s) (hserving : s.CUR.toNat < 64) : Inv s.advance := by
  intro hk
  obtain ⟨-, hsigma, hblock⟩ := h hk
  refine ⟨?_, hsigma, fun _ => hblock hserving⟩
  rw [toNat_CUR_advance hserving]
  omega

theorem inv_refill {s : State} (h : Inv s) : Inv s.refill := by
  intro hk
  obtain ⟨-, hsigma, -⟩ := h hk
  refine ⟨by simp, fun i => ?_, fun _ => ⟨counterOf s.S, ?_⟩⟩
  · exact ((sameButCounter_incrementCounter s.S).constants i).trans (hsigma i)
  · rw [refill_S, refill_BUF, withCounter_incrementCounter]

theorem inv_nextByte (s : State) (b : Byte) (t : State) (h : Inv s) (hb : s.nextByte = some (b, t)) : Inv t := by
  rcases nextByte_eq_some hb with ⟨hserving, rfl⟩ | ⟨-, rfl⟩
  · exact inv_advance h hserving
  · exact inv_advance (inv_refill h) (by simp)

/-- Every command that succeeds keeps the invariant. -/
theorem Effect.inv {i : Instr} {s u : State} {dout : List Byte} (he : Effect i s dout u) (h : Inv s) : Inv u := by
  cases i with
  | perm =>
    obtain ⟨-, rfl⟩ := he
    exact h
  | subkey klen plen =>
    obtain ⟨-, -, -, rfl⟩ := he
    exact h
  | ksInit klen nlen =>
    obtain ⟨-, -, -, rfl⟩ := he
    exact inv_initStream _ _ _ s
  | ksSetctr =>
    obtain ⟨-, -, rfl⟩ := he
    exact h.of_sameButCounter (sameButCounter_setCounterWords _ _ s.S) rfl rfl rfl
  | ksNext =>
    obtain ⟨-, b, hb, -⟩ := he
    exact inv_nextByte s b u h hb
  | ksCrypt n =>
    obtain ⟨-, hx⟩ := he
    exact xorStream_preserves inv_nextByte h hx
  | sipInit =>
    obtain ⟨-, rfl⟩ := he
    exact h.of_sameCipher ⟨rfl, rfl, rfl, rfl⟩
  | sipBlock =>
    obtain ⟨-, -, rfl⟩ := he
    exact h.of_sameCipher ⟨rfl, rfl, rfl, rfl⟩
  | sipFinal r =>
    obtain ⟨-, -, rfl⟩ := he
    exact h.of_sameCipher ⟨rfl, rfl, rfl, rfl⟩

/-- Settles O58: waiting and refusing a command leave unit K, a reset leaves no context, and a command that succeeds keeps
the invariant by its effect. -/
theorem stepKeepsTheInvariant : Obligations.StepKeepsTheInvariant := by
  intro s t h hstep
  rcases step_eq_next hstep with rfl | ⟨later, -, rfl⟩ | ⟨cw, din, later, -, hend⟩
  · exact h
  · exact inv_of_no_context (resetBy_KSV later s)
  have hp : Inv (s.present din later) := h.of_sameCipher (sameCore_present din later s).1
  rcases hend with ⟨e, rfl⟩ | ⟨i, dout, u, -, rfl, heffect⟩
  · exact hp.of_sameCipher (sameCore_respond e [] _).1
  · exact (heffect.inv hp).of_sameCipher (sameCore_respond .ok dout u).1

/-- Settles O57: no context exists at reset. -/
theorem invariantAtReset : Obligations.InvariantAtReset :=
  inv_of_no_context rfl

/-- Settles O13: both flags of `State.reset` are clear, by its definition. -/
theorem resetClearsBothFlags : Obligations.ResetClearsBothFlags :=
  ⟨rfl, rfl⟩

end Sys2Proof.Machine
end

section
/-! SUPPORT. What the spec leaves unspecified is unobservable (10_state.md rules R25, R28 and R34): indistinguishable
states stay so under every operation a command is made of, so under every command, every step and every run. -/

namespace Sys2Proof.Machine

/-! ### A run, one step at a time -/

theorem run_succ_of_next {s t : State} (k : Nat) (h : step s = .next t) : core.run (k + 1) s = core.run k t := by
  have hcore : core.step s = .next t := h
  simp only [Host.Core.run, hcore]

theorem run_succ_of_fault {s : State} {f : Fault} (k : Nat) (h : step s = .fault f) :
    core.run (k + 1) s = .fault f := by
  have hcore : core.step s = .fault f := h
  simp only [Host.Core.run, hcore]

theorem run_succ_of_refused {s : State} {f : Refusal} (k : Nat) (h : step s = .refused f) :
    core.run (k + 1) s = .refused f := by
  have hcore : core.step s = .refused f := h
  simp only [Host.Core.run, hcore]

/-! ### The operations on indistinguishable states -/

/-- Related outcomes are of one kind. -/
theorem outcomesRelate_cases {R : State → State → Prop} {o o' : Outcome} (h : OutcomesRelate R o o') :
    (∃ u v, o = .next u ∧ o' = .next v ∧ R u v) ∨ (∃ f, o = .fault f ∧ o' = .fault f) ∨
      ∃ f, o = .refused f ∧ o' = .refused f := by
  match o, o', h with
  | .next u, .next v, h => exact .inl ⟨u, v, rfl, rfl, h⟩
  | .fault f, .fault _, rfl => exact .inr (.inl ⟨f, rfl, rfl⟩)
  | .refused f, .refused _, rfl => exact .inr (.inr ⟨f, rfl, rfl⟩)

theorem Indistinguishable.respond {s t : State} (h : Indistinguishable s t) (st : Status) (dout : List Byte) :
    Indistinguishable (s.respond st dout) (t.respond st dout) := by
  obtain ⟨-, hhost, hanswers, hrest⟩ := h
  exact ⟨rfl, hhost, congrArg (· ++ [(⟨st.code, dout⟩ : Response)]) hanswers, hrest⟩

theorem Indistinguishable.present {s t : State} (h : Indistinguishable s t) (din : List Byte)
    (later : List HostMove) : Indistinguishable (s.present din later) (t.present din later) := by
  obtain ⟨-, -, hrest⟩ := h
  exact ⟨rfl, rfl, hrest⟩

theorem Indistinguishable.resetBy {s t : State} (h : Indistinguishable s t) (later : List HostMove) :
    Indistinguishable (s.resetBy later) (t.resetBy later) := by
  obtain ⟨-, -, hanswers, -⟩ := h
  exact ⟨rfl, rfl, hanswers, rfl, rfl, fun _ => ⟨rfl, rfl, fun _ => rfl⟩, fun _ => ⟨rfl, rfl⟩⟩

/-- A new context overwrites `S` and `CUR`, and no byte of `BUF` may be served. -/
theorem Indistinguishable.initStream {s t : State} (h : Indistinguishable s t) (key nonce : List Byte) (nlen : Nat) :
    Indistinguishable (s.initStream key nonce nlen) (t.initStream key nonce nlen) := by
  obtain ⟨hDIN, hhost, hanswers, -, hSIPA, -, hhash⟩ := h
  exact ⟨hDIN, hhost, hanswers, rfl, hSIPA, fun _ => ⟨rfl, rfl, fun hc => absurd hc (by simp)⟩, hhash⟩

theorem Indistinguishable.setCounter {s t : State} (h : Indistinguishable s t) (counter : List Byte) :
    Indistinguishable (s.setCounter counter) (t.setCounter counter) := by
  obtain ⟨hDIN, hhost, hanswers, hKSV, hSIPA, hcipher, hhash⟩ := h
  refine ⟨hDIN, hhost, hanswers, hKSV, hSIPA, fun hk => ?_, hhash⟩
  obtain ⟨hS, hrest⟩ := hcipher hk
  exact ⟨congrArg (setCounterWords _ _) hS, hrest⟩

theorem Indistinguishable.advance {s t : State} (h : Indistinguishable s t) (hserving : s.CUR.toNat < 64) :
    Indistinguishable s.advance t.advance := by
  obtain ⟨hDIN, hhost, hanswers, hKSV, hSIPA, hcipher, hhash⟩ := h
  refine ⟨hDIN, hhost, hanswers, hKSV, hSIPA, fun hk => ?_, hhash⟩
  obtain ⟨hS, hCUR, hBUF⟩ := hcipher hk
  exact ⟨hS, congrArg (· + 1) hCUR, fun _ => hBUF hserving⟩

/-- A refill writes the whole buffer from `S`. -/
theorem Indistinguishable.refill {s t : State} (h : Indistinguishable s t) :
    Indistinguishable s.refill t.refill := by
  obtain ⟨hDIN, hhost, hanswers, hKSV, hSIPA, hcipher, hhash⟩ := h
  refine ⟨hDIN, hhost, hanswers, hKSV, hSIPA, fun hk => ?_, hhash⟩
  obtain ⟨hS, -⟩ := hcipher hk
  exact ⟨congrArg incrementCounter hS, rfl, fun _ => congrArg keystreamBlock hS⟩

/-- A new hash overwrites `V` and `LEN`. -/
theorem Indistinguishable.beginHash {s t : State} (h : Indistinguishable s t) (key : List Byte) :
    Indistinguishable (s.beginHash key) (t.beginHash key) := by
  obtain ⟨hDIN, hhost, hanswers, hKSV, -, hcipher, -⟩ := h
  exact ⟨hDIN, hhost, hanswers, hKSV, rfl, hcipher, fun _ => ⟨rfl, rfl⟩⟩

theorem Indistinguishable.absorbChunk {s t : State} (h : Indistinguishable s t) (m : List Byte) :
    Indistinguishable (s.absorbChunk m) (t.absorbChunk m) := by
  obtain ⟨hDIN, hhost, hanswers, hKSV, hSIPA, hcipher, hhash⟩ := h
  refine ⟨hDIN, hhost, hanswers, hKSV, hSIPA, hcipher, fun ha => ?_⟩
  obtain ⟨hV, hLEN⟩ := hhash ha
  exact ⟨congrArg (sipAbsorb (le64 m)) hV, congrArg (· + 8) hLEN⟩

/-- After the end of a hash `V` and `LEN` are not compared. -/
theorem Indistinguishable.endHash {s t : State} (h : Indistinguishable s t) (rest : List Byte) (r : Byte) :
    Indistinguishable (s.endHash rest r) (t.endHash rest r) := by
  obtain ⟨hDIN, hhost, hanswers, hKSV, -, hcipher, -⟩ := h
  exact ⟨hDIN, hhost, hanswers, hKSV, rfl, hcipher, fun ha => absurd ha (by simp)⟩

/-! ### Keystream bytes from indistinguishable states -/

/-- Two byte sources that both stop, or give the same output and leave indistinguishable states. -/
def StreamsRelate {α : Type} (o o' : Option (α × State)) : Prop :=
  (o = none ∧ o' = none) ∨ ∃ a u v, o = some (a, u) ∧ o' = some (a, v) ∧ Indistinguishable u v

theorem nextByte_relate {s t : State} (h : Indistinguishable s t) (hk : s.KSV = true) :
    StreamsRelate s.nextByte t.nextByte := by
  obtain ⟨-, -, -, -, -, hcipher, -⟩ := id h
  obtain ⟨hS, hCUR, hBUF⟩ := hcipher hk
  rcases nextByte_cases s with ⟨-, hserving, hb⟩ | ⟨hfresh, hb⟩ | ⟨hbeyond, hb⟩
  · refine .inr ⟨_, _, _, hb, ?_, h.advance hserving⟩
    simp only [nextByte_serving (hCUR ▸ hserving), ← hCUR, hBUF hserving]
  · refine .inr ⟨_, _, _, hb, ?_, h.refill.advance (by simp)⟩
    rw [nextByte_fresh (hCUR ▸ hfresh), hS]
  · exact .inl ⟨hb, nextByte_none (hCUR ▸ hbeyond)⟩

theorem nextByte_KSV {s t : State} {b : Byte} (h : s.nextByte = some (b, t)) : t.KSV = s.KSV := by
  rcases nextByte_eq_some h with ⟨-, rfl⟩ | ⟨-, rfl⟩ <;> rfl

theorem xorStream_relate (data : List Byte) {s t : State} (h : Indistinguishable s t) (hk : s.KSV = true) :
    StreamsRelate (xorStream data s) (xorStream data t) := by
  induction data generalizing s t with
  | nil => exact .inr ⟨_, _, _, rfl, rfl, h⟩
  | cons d data ih =>
    rcases nextByte_relate h hk with ⟨hs, ht⟩ | ⟨b, s1, t1, hs, ht, h1⟩
    · exact .inl ⟨by simp [xorStream_cons, hs], by simp [xorStream_cons, ht]⟩
    rcases ih h1 ((nextByte_KSV hs).trans hk) with ⟨hs1, ht1⟩ | ⟨out, u, v, hs1, ht1, huv⟩
    · exact .inl ⟨by simp [xorStream_cons, hs, hs1], by simp [xorStream_cons, ht, ht1]⟩
    · exact .inr ⟨(d ^^^ b) :: out, u, v, by simp [xorStream_cons, hs, hs1], by simp [xorStream_cons, ht, ht1], huv⟩

/-! ### Commands, steps and runs -/

theorem answer_relate {s t : State} {dout dout' : List Byte} (hd : dout = dout') (h : Indistinguishable s t) :
    OutcomesRelate Indistinguishable (answer dout s) (answer dout' t) :=
  hd ▸ h.respond .ok dout

theorem answerStream_relate {o o' : Option (List Byte × State)} (h : StreamsRelate o o') :
    OutcomesRelate Indistinguishable (answerStream o) (answerStream o') := by
  obtain ⟨rfl, rfl⟩ | ⟨dout, u, v, rfl, rfl, huv⟩ := h
  · exact rfl
  · exact answer_relate rfl huv

/-- The same check in both states, and related ends where it passes. -/
theorem require_relate {s t : State} {check check' : Bool} {e : Status} {rest rest' : Outcome}
    (h : Indistinguishable s t) (hc : check = check')
    (hrest : check = true → OutcomesRelate Indistinguishable rest rest') :
    OutcomesRelate Indistinguishable (require check e s rest) (require check' e t rest') := by
  subst hc
  cases check with
  | false => exact h.respond e []
  | true => exact hrest rfl

theorem withPayload_relate {i : Instr} {s t : State} {rest rest' : Outcome} (h : Indistinguishable s t)
    (hrest : OutcomesRelate Indistinguishable rest rest') :
    OutcomesRelate Indistinguishable (withPayload i s rest) (withPayload i t rest') :=
  require_relate h (by rw [h.1]) fun _ => hrest

theorem exec_relate (i : Instr) {s t : State} (h : Indistinguishable s t) :
    OutcomesRelate Indistinguishable (exec i s) (exec i t) := by
  obtain ⟨hDIN, -, -, hKSV, hSIPA, -, hhash⟩ := id h
  have hkey : s.keyBytes = t.keyBytes := congrArg (slice · 0 32) hDIN
  have hafter (n : Nat) : s.afterKey n = t.afterKey n := congrArg (slice · 32 n) hDIN
  cases i with
  | perm => exact withPayload_relate h (answer_relate (by rw [hDIN]) h)
  | subkey klen plen =>
    refine withPayload_relate h (require_relate h rfl fun _ => require_relate h rfl fun _ => ?_)
    exact answer_relate (by rw [hkey, hafter]) h
  | ksInit klen nlen =>
    refine withPayload_relate h (require_relate h rfl fun _ => require_relate h rfl fun _ => ?_)
    rw [hkey, hafter]
    exact answer_relate rfl (h.initStream _ _ _)
  | ksSetctr =>
    refine withPayload_relate h (require_relate h hKSV fun _ => ?_)
    rw [hDIN]
    exact answer_relate rfl (h.setCounter _)
  | ksNext =>
    refine withPayload_relate h (require_relate h hKSV fun hk => answerStream_relate ?_)
    obtain ⟨hs, ht⟩ | ⟨b, u, v, hs, ht, huv⟩ := nextByte_relate h hk
    · exact .inl ⟨by rw [hs]; rfl, by rw [ht]; rfl⟩
    · exact .inr ⟨[b], u, v, by rw [hs]; rfl, by rw [ht]; rfl, huv⟩
  | ksCrypt n =>
    refine withPayload_relate h (require_relate h hKSV fun hk => answerStream_relate ?_)
    rw [hDIN]
    exact xorStream_relate t.DIN h hk
  | sipInit =>
    refine withPayload_relate h ?_
    rw [hDIN]
    exact answer_relate rfl (h.beginHash _)
  | sipBlock =>
    refine withPayload_relate h (require_relate h hSIPA fun _ => ?_)
    rw [hDIN]
    exact answer_relate rfl (h.absorbChunk _)
  | sipFinal r =>
    refine withPayload_relate h (require_relate h hSIPA fun ha => ?_)
    obtain ⟨hV, hLEN⟩ := hhash ha
    rw [hDIN]
    exact answer_relate (by rw [endHash_V, endHash_V, hV, hLEN]) (h.endHash _ r)

theorem step_relate {s t : State} (h : Indistinguishable s t) :
    OutcomesRelate Indistinguishable (step s) (step t) := by
  obtain ⟨-, hhost, -⟩ := id h
  rcases hs : s.host with _ | ⟨_ | ⟨cw, din⟩, later⟩ <;> have ht := hhost ▸ hs
  · simp only [step, fetch_idle hs, fetch_idle ht]
    exact h
  · simp only [step, fetch_reset hs, fetch_reset ht]
    exact h.resetBy later
  · cases hd : decode cw with
    | error e =>
      simp only [step, fetch_illegal hs hd, fetch_illegal ht hd]
      exact (h.present din later).respond .illegalCommand []
    | ok i =>
      rw [step_run hs hd, step_run ht hd]
      exact exec_relate i (h.present din later)

/-- Settles O60, by induction on the number of steps: one step gives related outcomes, and a run goes on from related
states. -/
theorem unspecifiedItemsAreUnobservable : Obligations.UnspecifiedItemsAreUnobservable := by
  intro k
  induction k with
  | zero => exact fun s t h => h
  | succ k ih =>
    intro s t h
    rcases outcomesRelate_cases (step_relate h) with ⟨u, v, hs, ht, huv⟩ | ⟨f, hs, ht⟩ | ⟨f, hs, ht⟩
    · rw [run_succ_of_next k hs, run_succ_of_next k ht]
      exact ih u v huv
    · rw [run_succ_of_fault k hs, run_succ_of_fault k ht]
      exact rfl
    · rw [run_succ_of_refused k hs, run_succ_of_refused k ht]
      exact rfl

end Sys2Proof.Machine
end

section
/-! SUPPORT. What each command leaves unchanged, and which command changes a flag (10_state.md rules R25, R28 and R33). -/

namespace Sys2Proof.Machine

/-! ### The frame of a keystream byte -/

/-- `t` is `s` after keystream bytes: in unit K the buffer, the cursor and the counter words may differ, and the response
is still to be given. -/
def StreamFrame (s t : State) : Prop :=
  SameHash s t ∧ t.KSV = s.KSV ∧ SameButCounter t.S s.S ∧ t.host = s.host ∧ t.answers = s.answers

theorem streamFrame_refl (s : State) : StreamFrame s s :=
  ⟨⟨rfl, rfl, rfl⟩, rfl, fun _ _ _ => rfl, rfl, rfl⟩

/-- One more byte stays in the frame: a refill increments the counter, and the cursor moves. -/
theorem StreamFrame.nextByte {r s t : State} {b : Byte} (h : StreamFrame r s) (hb : s.nextByte = some (b, t)) :
    StreamFrame r t := by
  obtain ⟨hhash, hKSV, hS, hrest⟩ := h
  rcases nextByte_eq_some hb with ⟨-, rfl⟩ | ⟨-, rfl⟩
  · exact ⟨hhash, hKSV, hS, hrest⟩
  · exact ⟨hhash, hKSV, (sameButCounter_incrementCounter s.S).trans hS, hrest⟩

theorem streamFrame_nextByte {s t : State} {b : Byte} (h : s.nextByte = some (b, t)) : StreamFrame s t :=
  (streamFrame_refl s).nextByte h

theorem streamFrame_xorStream {s t : State} {data out : List Byte} (h : xorStream data s = some (out, t)) :
    StreamFrame s t :=
  xorStream_preserves (P := StreamFrame s) (fun _ _ _ => StreamFrame.nextByte) (streamFrame_refl s) h

/-- Bytes the block being served still holds are taken without a refill. -/
theorem xorStream_within_block {data out : List Byte} {s t : State} (hlen : data.length ≤ 64 - s.CUR.toNat)
    (h : xorStream data s = some (out, t)) : t.S = s.S ∧ t.BUF = s.BUF := by
  induction data generalizing s out with
  | nil =>
    simp only [xorStream_nil, Option.some.injEq, Prod.mk.injEq] at h
    simp [← h.2]
  | cons d data ih =>
    obtain ⟨b, s1, rest, hb, hrest, -⟩ := xorStream_cons_eq_some h
    rw [List.length_cons] at hlen
    have hserving : s.CUR.toNat < 64 := by omega
    rw [nextByte_serving hserving, Option.some.injEq, Prod.mk.injEq] at hb
    rw [← hb.2] at hrest
    have hadvance := toNat_CUR_advance hserving
    exact ih (s := s.advance) (by omega) hrest

/-- No refill is counted exactly when the block being served holds the bytes (R139). -/
theorem le_of_refillCount_eq_zero {n c : Nat} (h : refillCount n c = 0) : n ≤ 64 - c := by
  by_contra hn
  rw [refillCount, if_pos (by omega)] at h
  omega

/-! ### The frame of a command -/

/-- Before the response is given, a command has left the later moves and the responses, and all of the unit it does not
use. -/
theorem Effect.frame {i : Instr} {s u : State} {dout : List Byte} (he : Effect i s dout u) :
    u.host = s.host ∧ u.answers = s.answers ∧ (usesCipher i = false → SameCipher s u) ∧
      (usesHash i = false → SameHash s u) := by
  cases i with
  | perm =>
    obtain ⟨-, rfl⟩ := he
    exact ⟨rfl, rfl, fun _ => ⟨rfl, rfl, rfl, rfl⟩, fun _ => ⟨rfl, rfl, rfl⟩⟩
  | subkey klen plen =>
    obtain ⟨-, -, -, rfl⟩ := he
    exact ⟨rfl, rfl, fun _ => ⟨rfl, rfl, rfl, rfl⟩, fun _ => ⟨rfl, rfl, rfl⟩⟩
  | ksInit klen nlen =>
    obtain ⟨-, -, -, rfl⟩ := he
    exact ⟨rfl, rfl, nofun, fun _ => ⟨rfl, rfl, rfl⟩⟩
  | ksSetctr =>
    obtain ⟨-, -, rfl⟩ := he
    exact ⟨rfl, rfl, nofun, fun _ => ⟨rfl, rfl, rfl⟩⟩
  | ksNext =>
    obtain ⟨-, b, hb, -⟩ := he
    obtain ⟨hhash, -, -, hhost, hanswers⟩ := streamFrame_nextByte hb
    exact ⟨hhost, hanswers, nofun, fun _ => hhash⟩
  | ksCrypt n =>
    obtain ⟨-, hx⟩ := he
    obtain ⟨hhash, -, -, hhost, hanswers⟩ := streamFrame_xorStream hx
    exact ⟨hhost, hanswers, nofun, fun _ => hhash⟩
  | sipInit =>
    obtain ⟨-, rfl⟩ := he
    exact ⟨rfl, rfl, fun _ => ⟨rfl, rfl, rfl, rfl⟩, nofun⟩
  | sipBlock =>
    obtain ⟨-, -, rfl⟩ := he
    exact ⟨rfl, rfl, fun _ => ⟨rfl, rfl, rfl, rfl⟩, nofun⟩
  | sipFinal r =>
    obtain ⟨-, -, rfl⟩ := he
    exact ⟨rfl, rfl, fun _ => ⟨rfl, rfl, rfl, rfl⟩, nofun⟩

/-- Settles O53: an error leaves all seven items; a success leaves the unit it does not use, and the effect of its rule
says which items of its own unit it leaves. -/
theorem accessMatrix : Obligations.AccessMatrix := by
  intro i s t h
  rcases exec_eq_next h with ⟨e, rfl⟩ | ⟨dout, u, rfl, hlen, he⟩
  · obtain ⟨hcipher, hhash⟩ := sameCore_respond e [] s
    refine ⟨rfl, ?_⟩
    cases i with
    | perm | subkey => exact ⟨hcipher, hhash⟩
    | ksInit => exact ⟨hhash, rfl⟩
    | ksSetctr => exact ⟨hhash, rfl, rfl, rfl, fun _ _ _ => rfl⟩
    | ksNext | ksCrypt => exact ⟨hhash, rfl, fun _ _ _ => rfl, fun _ => ⟨rfl, rfl⟩⟩
    | sipInit => exact hcipher
    | sipBlock | sipFinal => exact ⟨hcipher, rfl⟩
  obtain ⟨hhost, -, hcipher, hhash⟩ := he.frame
  refine ⟨hhost, ?_⟩
  cases i with
  | perm => exact ⟨hcipher rfl, hhash rfl⟩
  | subkey klen plen => exact ⟨hcipher rfl, hhash rfl⟩
  | ksInit klen nlen =>
    obtain ⟨-, -, -, rfl⟩ := he
    exact ⟨hhash rfl, rfl⟩
  | ksSetctr =>
    obtain ⟨-, -, rfl⟩ := he
    exact ⟨hhash rfl, rfl, rfl, rfl, sameButCounter_setCounterWords _ _ s.S⟩
  | ksNext =>
    obtain ⟨-, b, hb, -⟩ := he
    obtain ⟨-, hKSV, hS, -⟩ := streamFrame_nextByte hb
    refine ⟨hhash rfl, hKSV, hS, fun hnotFresh => ?_⟩
    rcases nextByte_eq_some hb with ⟨-, rfl⟩ | ⟨hfresh, -⟩
    · exact ⟨rfl, rfl⟩
    · exact absurd hfresh hnotFresh
  | ksCrypt n =>
    obtain ⟨-, hx⟩ := he
    obtain ⟨-, hKSV, hS, -⟩ := streamFrame_xorStream hx
    refine ⟨hhash rfl, hKSV, hS, fun hzero => ?_⟩
    exact xorStream_within_block (t := u) (hlen.trans_le (le_of_refillCount_eq_zero hzero)) hx
  | sipInit => exact hcipher rfl
  | sipBlock =>
    obtain ⟨-, -, rfl⟩ := he
    exact ⟨hcipher rfl, rfl⟩
  | sipFinal r =>
    obtain ⟨-, -, rfl⟩ := he
    exact ⟨hcipher rfl, rfl⟩

/-! ### The flags -/

/-- A command that succeeds leaves `KSV`, or is a `KS.INIT` and sets it. -/
theorem Effect.KSV_cases {i : Instr} {s u : State} {dout : List Byte} (he : Effect i s dout u) :
    u.KSV = s.KSV ∨ (u.KSV = true ∧ dout = [] ∧ ∃ a b, i = .ksInit a b) := by
  obtain ⟨-, -, hcipher, -⟩ := he.frame
  cases i with
  | ksInit klen nlen =>
    obtain ⟨-, -, hdout, rfl⟩ := he
    exact .inr ⟨rfl, hdout, klen, nlen, rfl⟩
  | ksSetctr =>
    obtain ⟨-, -, rfl⟩ := he
    exact .inl rfl
  | ksNext =>
    obtain ⟨-, b, hb, -⟩ := he
    exact .inl (nextByte_KSV hb)
  | ksCrypt n =>
    obtain ⟨-, hx⟩ := he
    obtain ⟨-, hKSV, -⟩ := streamFrame_xorStream hx
    exact .inl hKSV
  | perm | subkey | sipInit | sipBlock | sipFinal =>
    obtain ⟨-, -, -, hKSV⟩ := hcipher rfl
    exact .inl hKSV.symm

/-- A command that succeeds leaves `SIPA`, or is a `SIP.INIT` and sets it, or is a `SIP.FINAL` and clears it. -/
theorem Effect.SIPA_cases {i : Instr} {s u : State} {dout : List Byte} (he : Effect i s dout u) :
    u.SIPA = s.SIPA ∨ (u.SIPA = true ∧ dout = [] ∧ i = .sipInit) ∨ (u.SIPA = false ∧ ∃ r, i = .sipFinal r) := by
  obtain ⟨-, -, -, hhash⟩ := he.frame
  cases i with
  | sipInit =>
    obtain ⟨hdout, rfl⟩ := he
    exact .inr (.inl ⟨rfl, hdout, rfl⟩)
  | sipBlock =>
    obtain ⟨-, -, rfl⟩ := he
    exact .inl rfl
  | sipFinal r =>
    obtain ⟨-, -, rfl⟩ := he
    exact .inr (.inr ⟨rfl, r, rfl⟩)
  | perm | subkey | ksInit | ksSetctr | ksNext | ksCrypt =>
    obtain ⟨-, -, hSIPA⟩ := hhash rfl
    exact .inl hSIPA.symm

/-- The three things a step that goes on can do to `KSV`. -/
theorem step_KSV_cases {s t : State} (h : step s = .next t) :
    t.KSV = s.KSV ∨
    (t.KSV = false ∧ ∃ later, s.host = .reset :: later) ∨
    (t.KSV = true ∧ ∃ cw din later a b, s.host = .command cw din :: later ∧ decode cw = .ok (.ksInit a b) ∧
      t.answers = s.answers ++ [okResponse []]) := by
  rcases step_eq_next h with rfl | ⟨later, hhost, rfl⟩ | ⟨cw, din, later, hhost, ⟨e, rfl⟩ | ⟨i, dout, u, hd, rfl, he⟩⟩
  · exact .inl rfl
  · exact .inr (.inl ⟨rfl, later, hhost⟩)
  · exact .inl rfl
  obtain ⟨-, hanswers, -⟩ := he.frame
  rcases he.KSV_cases with hKSV | ⟨hKSV, rfl, a, b, rfl⟩
  · exact .inl hKSV
  · exact .inr (.inr ⟨hKSV, cw, din, later, a, b, hhost, hd, congrArg (· ++ [okResponse []]) hanswers⟩)

/-- The four things a step that goes on can do to `SIPA`. -/
theorem step_SIPA_cases {s t : State} (h : step s = .next t) :
    t.SIPA = s.SIPA ∨
    (t.SIPA = false ∧ ∃ later, s.host = .reset :: later) ∨
    (t.SIPA = true ∧ ∃ cw din later, s.host = .command cw din :: later ∧ decode cw = .ok .sipInit ∧
      t.answers = s.answers ++ [okResponse []]) ∨
    (t.SIPA = false ∧ ∃ cw din later r dout, s.host = .command cw din :: later ∧ decode cw = .ok (.sipFinal r) ∧
      t.answers = s.answers ++ [okResponse dout]) := by
  rcases step_eq_next h with rfl | ⟨later, hhost, rfl⟩ | ⟨cw, din, later, hhost, ⟨e, rfl⟩ | ⟨i, dout, u, hd, rfl, he⟩⟩
  · exact .inl rfl
  · exact .inr (.inl ⟨rfl, later, hhost⟩)
  · exact .inl rfl
  obtain ⟨-, hanswers, -⟩ := he.frame
  have hanswered : (u.respond .ok dout).answers = s.answers ++ [okResponse dout] :=
    congrArg (· ++ [okResponse dout]) hanswers
  rcases he.SIPA_cases with hSIPA | ⟨hSIPA, rfl, rfl⟩ | ⟨hSIPA, r, rfl⟩
  · exact .inl hSIPA
  · exact .inr (.inr (.inl ⟨hSIPA, cw, din, later, hhost, hd, hanswered⟩))
  · exact .inr (.inr (.inr ⟨hSIPA, cw, din, later, r, dout, hhost, hd, hanswered⟩))

/-- Settles O54: a flag that changed was set or cleared in one of the ways above. -/
theorem flagTransitions : Obligations.FlagTransitions := by
  intro s t h
  refine ⟨fun hs ht => ?_, fun hs ht => ?_, fun hs ht => ?_, fun hs ht => ?_⟩
  · rcases step_KSV_cases h with hsame | ⟨hclear, -⟩ | ⟨-, hinit⟩
    · simp [hsame, hs] at ht
    · simp [hclear] at ht
    · exact hinit
  · rcases step_KSV_cases h with hsame | ⟨-, hreset⟩ | ⟨hset, -⟩
    · simp [hsame, hs] at ht
    · exact hreset
    · simp [hset] at ht
  · rcases step_SIPA_cases h with hsame | ⟨hclear, -⟩ | ⟨-, hinit⟩ | ⟨hclear, -⟩
    · simp [hsame, hs] at ht
    · simp [hclear] at ht
    · exact hinit
    · simp [hclear] at ht
  · rcases step_SIPA_cases h with hsame | ⟨-, hreset⟩ | ⟨hset, -⟩ | ⟨-, hfinal⟩
    · simp [hsame, hs] at ht
    · exact .inl hreset
    · simp [hset] at ht
    · exact .inr hfinal

end Sys2Proof.Machine
end

section
/-! SUPPORT. The keystream block byte by byte, and the block counter while a block is served (10_state.md rules R22, R23 and
R35; 70_reset_and_hazards.md rule R227). -/

namespace Sys2Proof.Machine

/-! ### The block -/

theorem getElem_addWords (x y : Vector W32 16) (i : Nat) (h : i < 16) : (addWords x y)[i] = x[i] + y[i] := by
  simp [addWords]

theorem getElem_blockOf (x : Vector W32 16) {i j : Nat} (hi : i < 16) (hj : j < 4) :
    (blockOf x)[4 * i + j]'(by omega) = byteOf x[i] j := by
  simp only [blockOf, Vector.getElem_ofFn, show (4 * i + j) / 4 = i by omega, show (4 * i + j) % 4 = j by omega]

/-- Settles O32: a block is the serialized sum of the permuted state and the state. -/
theorem keystreamBlockBytes : Obligations.KeystreamBlockBytes := by
  intro x i j
  rw [keystreamBlock, getElem_blockOf _ i.isLt j.isLt, getElem_addWords]
  rfl

/-! ### The cipher commands with a context -/

theorem exec_ksNext_ready {s : State} (hk : s.KSV = true) (hDIN : s.DIN = []) :
    exec .ksNext s = answerStream (s.nextByte.map fun p => ([p.1], p.2)) := by
  show execKsNext s = _
  rw [execKsNext, withPayload_pass _ rfl (congrArg List.length hDIN), State.cipherReady, hk, require_true]

theorem exec_ksCrypt_ready {s : State} {n : Byte} (hk : s.KSV = true) (hlen : s.DIN.length = n.toNat) :
    exec (.ksCrypt n) s = answerStream (xorStream s.DIN s) := by
  show execKsCrypt n s = _
  rw [execKsCrypt, withPayload_pass _ rfl hlen, State.cipherReady, hk, require_true]

theorem exec_ksSetctr_ready {s : State} (hk : s.KSV = true) (hlen : s.DIN.length = 8) :
    exec .ksSetctr s = answer [] (s.setCounter s.DIN) := by
  show execKsSetctr s = _
  rw [execKsSetctr, withPayload_pass _ rfl hlen, State.cipherReady, hk, require_true]

/-! ### A counter as a payload -/

theorem le32_low_st64 (c : W64) : le32 (slice (st64 c) 0 4) = c.setWidth 32 := by
  have hbyte (j : Nat) (hj : j < 4) : byteOf c j = byteOf (c.setWidth 32) j := by
    ext k hk
    simp [byteOf, show 8 * j + k < 32 by omega]
  have hslice : slice (st64 c) 0 4 = st32 (c.setWidth 32) := by
    simp [slice, st64, st32, hbyte]
  rw [hslice, le32_st32]

theorem le32_high_st64 (c : W64) : le32 (slice (st64 c) 4 4) = (c >>> 32).setWidth 32 := by
  have hbyte (j : Nat) (hj : j < 4) : byteOf c (4 + j) = byteOf ((c >>> 32).setWidth 32) j := by
    ext k hk
    simp [byteOf, show 8 * j + k < 32 by omega, show 8 * (4 + j) + k = 32 + (8 * j + k) by omega]
  have hslice : slice (st64 c) 4 4 = st32 ((c >>> 32).setWidth 32) := by
    simp [slice, st64, st32, ← hbyte]
  rw [hslice, le32_st32]

/-- Overwriting the counter words with the bytes of a counter makes it the counter (R84, R137). -/
theorem setCounter_st64_S (c : W64) (s : State) : (s.setCounter (st64 c)).S = withCounter c s.S := by
  rw [setCounter_S, le32_low_st64, le32_high_st64, withCounter]

theorem withCounter_withCounter (c d : W64) (x : Vector W32 16) : withCounter c (withCounter d x) = withCounter c x :=
  setCounterWords_setCounterWords _ _ _ _ _

/-! ### The counter while a block is served -/

/-- The buffer is the block at the counter value one before `CTR`. -/
def HoldsPreviousBlock (s : State) : Prop :=
  s.BUF = keystreamBlock (withCounter (counterBefore s) s.S)

/-- A refill makes the block and then increments the counter. -/
theorem holdsPreviousBlock_refill (s : State) : HoldsPreviousBlock s.refill := by
  have hbefore : counterBefore s.refill = counterOf s.S := by
    rw [counterBefore, refill_S, counterOf_incrementCounter, BitVec.add_assoc]
    exact BitVec.add_zero _
  rw [HoldsPreviousBlock, refill_BUF, hbefore, refill_S, withCounter_incrementCounter]

/-- A byte of the block moves the cursor alone, and a refill makes the relation anew. -/
theorem holdsPreviousBlock_nextByte (s : State) (b : Byte) (t : State) (h : HoldsPreviousBlock s)
    (hb : s.nextByte = some (b, t)) : HoldsPreviousBlock t := by
  rcases nextByte_eq_some hb with ⟨-, rfl⟩ | ⟨-, rfl⟩
  · exact h
  · exact holdsPreviousBlock_refill s

theorem counterAhead_nextByte (s : State) (b : Byte) (t : State) (h : CounterAhead s)
    (hb : s.nextByte = some (b, t)) : CounterAhead t := by
  rcases nextByte_eq_some hb with ⟨hserving, rfl⟩ | ⟨-, rfl⟩
  · exact fun _ => h hserving
  · exact fun _ => holdsPreviousBlock_refill s

/-- More bytes than the block being served holds need a refill. -/
theorem holdsPreviousBlock_xorStream {data out : List Byte} {s t : State} (hlen : 64 - s.CUR.toNat < data.length)
    (h : xorStream data s = some (out, t)) : HoldsPreviousBlock t := by
  induction data generalizing s out with
  | nil => simp at hlen
  | cons d data ih =>
    obtain ⟨b, s1, rest, hb, hrest, -⟩ := xorStream_cons_eq_some h
    rw [List.length_cons] at hlen
    rcases nextByte_eq_some hb with ⟨hserving, rfl⟩ | ⟨-, rfl⟩
    · have hadvance := toNat_CUR_advance hserving
      exact ih (s := s.advance) (by omega) hrest
    · exact xorStream_preserves (P := HoldsPreviousBlock) holdsPreviousBlock_nextByte
        (s := s.refill.advance) (holdsPreviousBlock_refill s) hrest

/-- From a cursor of at most 64 there are as many bytes as are wanted. -/
theorem exists_xorStream (data : List Byte) {s : State} (hcur : s.CUR.toNat ≤ 64) :
    ∃ out t, xorStream data s = some (out, t) := by
  induction data generalizing s with
  | nil => exact ⟨[], s, rfl⟩
  | cons d data ih =>
    have hbyte : ∃ b s1, s.nextByte = some (b, s1) ∧ s1.CUR.toNat ≤ 64 := by
      rcases nextByte_cases s with ⟨-, hserving, hb⟩ | ⟨-, hb⟩ | ⟨hbeyond, -⟩
      · exact ⟨_, _, hb, by rw [toNat_CUR_advance hserving]; omega⟩
      · exact ⟨_, _, hb, by simp⟩
      · omega
    obtain ⟨b, s1, hb, hcur1⟩ := hbyte
    obtain ⟨out, t, hx⟩ := ih hcur1
    exact ⟨(d ^^^ b) :: out, t, by simp [xorStream_cons, hb, hx]⟩

/-- Every command but `KS.SETCTR` that succeeds keeps the counter one ahead of the block being served. -/
theorem Effect.counterAhead {i : Instr} {s u : State} {dout : List Byte} (he : Effect i s dout u)
    (hi : i ≠ .ksSetctr) (h : CounterAhead s) : CounterAhead u := by
  obtain ⟨-, -, hcipher, -⟩ := he.frame
  cases i with
  | ksInit klen nlen =>
    obtain ⟨-, -, -, rfl⟩ := he
    exact counterAhead_of_not_serving (by simp)
  | ksSetctr => exact absurd rfl hi
  | ksNext =>
    obtain ⟨-, b, hb, -⟩ := he
    exact counterAhead_nextByte s b u h hb
  | ksCrypt n =>
    obtain ⟨-, hx⟩ := he
    exact xorStream_preserves counterAhead_nextByte h hx
  | perm | subkey | sipInit | sipBlock | sipFinal =>
    obtain ⟨hS, hBUF, hCUR, -⟩ := hcipher rfl
    exact (counterAhead_congr hS hBUF hCUR).mp h

/-- Settles O34: a refill leaves the counter one ahead of its block, further bytes and other commands keep that, and
`KS.SETCTR` leaves the buffer and every word the block depends on but the counter. -/
theorem counterIsAheadOfTheBlock : Obligations.CounterIsAheadOfTheBlock := by
  refine ⟨fun s hk hfresh hDIN => ?_, fun n s hk hcur hlen hmore => ?_, fun i s t hi h hexec => ?_,
    fun s c hk hserving h => ?_⟩
  · refine ⟨s.refill.advance.respond .ok [(keystreamBlock s.S)[0]], ?_, rfl, holdsPreviousBlock_refill s⟩
    rw [exec_ksNext_ready hk hDIN, nextByte_fresh hfresh]
    rfl
  · obtain ⟨out, u, hx⟩ := exists_xorStream s.DIN hcur
    refine ⟨u.respond .ok out, ?_, holdsPreviousBlock_xorStream (t := u) (hlen ▸ hmore) hx⟩
    rw [exec_ksCrypt_ready hk hlen, hx]
    rfl
  · rcases exec_eq_next hexec with ⟨e, rfl⟩ | ⟨dout, u, rfl, -, he⟩
    · exact h
    · exact he.counterAhead hi h
  · have hS : (({ s with DIN := st64 c } : State).setCounter (st64 c)).S = withCounter c s.S := setCounter_st64_S c _
    refine ⟨_, exec_ksSetctr_ready hk rfl, rfl, ?_, ?_⟩
    · exact (congrArg counterOf hS).trans (counterOf_withCounter c s.S)
    · calc s.BUF = keystreamBlock (withCounter (counterBefore s) s.S) := h hserving
        _ = keystreamBlock (withCounter (counterBefore s) (withCounter c s.S)) := by rw [withCounter_withCounter]
        _ = _ := by rw [← hS]; rfl

end Sys2Proof.Machine
end

section
/-! SUPPORT. The response to a command: one for every command that goes on, and one for an illegal word (20_memory.md rule
R57; 30_encoding.md rule R75). -/

namespace Sys2Proof.Machine

theorem step_illegal {s : State} {cw : W32} {din : List Byte} {later : List HostMove} {e : Reject}
    (h : s.host = .command cw din :: later) (hd : decode cw = .error e) :
    step s = raise .illegalCommand (s.present din later) := by
  simp only [step, fetch_illegal h hd]

/-- A command that goes on is answered once, with an error or after an effect that leaves the port alone. -/
theorem exec_answered {i : Instr} {s t : State} (h : exec i s = .next t) : ∃ r, Answered s t r := by
  rcases exec_eq_next h with ⟨e, rfl⟩ | ⟨dout, u, rfl, -, he⟩
  · exact ⟨_, answered_respond e [] s⟩
  · obtain ⟨hhost, hanswers, -⟩ := he.frame
    exact ⟨okResponse dout, congrArg (· ++ [okResponse dout]) hanswers, rfl, hhost⟩

/-- A command move that goes on is answered once from the state that has it on the port, whether its word is legal or
not. -/
theorem step_command_answered {s t : State} {cw : W32} {din : List Byte} {later : List HostMove}
    (hhost : s.host = .command cw din :: later) (hstep : step s = .next t) :
    ∃ r, Answered (s.present din later) t r := by
  cases hd : decode cw with
  | error e =>
    rw [step_illegal hhost hd, raise_eq, Host.Outcome.next.injEq] at hstep
    exact ⟨_, hstep ▸ answered_respond .illegalCommand [] (s.present din later)⟩
  | ok i =>
    rw [step_run hhost hd] at hstep
    exact exec_answered hstep

/-- Settles O11: presenting the command leaves the later moves and no response yet, and it is then answered once. -/
theorem everyCommandIsAnsweredOnce : Obligations.EveryCommandIsAnsweredOnce := by
  intro s t cw din later hhost hstep
  obtain ⟨r, hanswers, hDIN, hlater⟩ := step_command_answered hhost hstep
  exact ⟨hlater, hDIN, r, hanswers⟩

end Sys2Proof.Machine
end

section
/-! SUPPORT. The decoder and the encoder (30_encoding.md rules R71, R73 to R75 and R81): the number a command word is,
which words are legal, and the two round trips. -/

namespace Sys2Proof.Machine

/-! ### The command word as a number and as its fields -/

/-- The fields of a packed word do not overlap, so the word is their weighted sum (R71). -/
theorem toNat_packWord (op a b : Byte) : (packWord op a b).toNat = op.toNat + a.toNat * 0x100 + b.toNat * 0x10000 := by
  have hop := op.isLt
  have ha := a.isLt
  have hb := b.isLt
  have hlow : op.toNat ||| a.toNat <<< 8 = op.toNat + a.toNat * 0x100 := by
    rw [Nat.lor_comm, ← Nat.shiftLeft_add_eq_or_of_lt hop, Nat.shiftLeft_eq, Nat.add_comm]
  have hall : (op.toNat + a.toNat * 0x100) ||| b.toNat <<< 16 =
      op.toNat + a.toNat * 0x100 + b.toNat * 0x10000 := by
    rw [Nat.lor_comm, ← Nat.shiftLeft_add_eq_or_of_lt (by omega), Nat.shiftLeft_eq, Nat.add_comm]
  rw [packWord, BitVec.toNat_or, BitVec.toNat_or, BitVec.toNat_shiftLeft, BitVec.toNat_shiftLeft,
    BitVec.toNat_setWidth_of_le (by decide), BitVec.toNat_setWidth_of_le (by decide),
    BitVec.toNat_setWidth_of_le (by decide), Nat.mod_eq_of_lt (by rw [Nat.shiftLeft_eq]; omega),
    Nat.mod_eq_of_lt (by rw [Nat.shiftLeft_eq]; omega), hlow, hall]

/-- A word whose reserved field is 0 is packed from its other three fields (R71). -/
theorem packWord_fields {cw : W32} (hz : CW.z cw = 0) : packWord (CW.op cw) (CW.a cw) (CW.b cw) = cw := by
  refine BitVec.eq_of_toNat_eq ?_
  have hcw := cw.isLt
  have hz' : (CW.z cw).toNat = 0 := congrArg BitVec.toNat hz
  rw [toNat_packWord]
  simp only [CW.op, CW.a, CW.b, CW.z, BitVec.extractLsb'_toNat, Nat.shiftRight_eq_div_pow] at hz' ⊢
  omega

/-- Settles O2: every encoding is a packed word, and a packed word is the sum of its fields. -/
theorem encodedWordIsTheSumOfItsFields : Obligations.EncodedWordIsTheSumOfItsFields := by
  refine ⟨rfl, fun klen plen => ?_, fun klen nlen => ?_, rfl, rfl, fun n => ?_, rfl, rfl, fun r => ?_⟩
  · exact toNat_packWord 0x02 klen plen
  · exact toNat_packWord 0x10 klen nlen
  · exact toNat_packWord 0x13 n 0
  · exact toNat_packWord 0x22 r 0

/-! ### Decoding -/

/-- What the decoder accepts: the reserved field is 0, and the opcode names a command whose "must be 0" fields are 0. -/
theorem decode_eq_ok {cw : W32} {i : Instr} :
    decode cw = .ok i ↔ CW.z cw = 0 ∧ selectOpcode (CW.op cw) (CW.a cw) (CW.b cw) = some (i, true) := by
  by_cases hz : CW.z cw = 0
  · rcases hsel : selectOpcode (CW.op cw) (CW.a cw) (CW.b cw) with _ | ⟨j, _ | _⟩ <;> simp [decode, hz, hsel]
  · simp only [decode, ne_eq, hz, not_false_eq_true, ↓reduceIte, reduceCtorEq, false_and]

/-- A packed word is decoded by its three fields. -/
theorem decode_packWord {op a b : Byte} {i : Instr} :
    decode (packWord op a b) = .ok i ↔ selectOpcode op a b = some (i, true) := by
  simp [decode_eq_ok, z_packWord, op_packWord, a_packWord, b_packWord]

/-- Settles O3: the fields of the encoding are the ones it was packed from, its opcode selects the command, and the
fields that must be 0 are 0; for the tail length of `SIP.FINAL` that is well-formedness. -/
theorem decodeEncodeRoundTrip : Obligations.DecodeEncodeRoundTrip := by
  intro i hi
  cases i with
  | sipFinal r =>
    have hr : r.extractLsb' 3 5 = 0#5 := by simpa [Instr.wellFormed] using hi
    exact decode_packWord.mpr (by simp [selectOpcode, hr])
  | perm | subkey | ksInit | ksSetctr | ksNext | ksCrypt | sipInit | sipBlock => exact decode_packWord.mpr rfl

/-- The command an opcode selects with its "must be 0" fields at 0 is well-formed, and those three fields encode it. -/
theorem selectOpcode_eq_some {op a b : Byte} {i : Instr} (h : selectOpcode op a b = some (i, true)) :
    i.wellFormed = true ∧ encode i = packWord op a b := by
  have hpack {k : Byte} (hk : op.toNat = k.toNat) (x y : Byte) : packWord k x y = packWord op x y := by
    rw [BitVec.eq_of_toNat_eq hk]
  unfold selectOpcode at h
  split at h <;> rename_i hop <;>
    simp only [Option.some.injEq, Prod.mk.injEq, Bool.and_eq_true, beq_iff_eq, and_true, reduceCtorEq] at h
  case h_1 | h_4 | h_5 | h_7 | h_8 =>
    obtain ⟨rfl, rfl, rfl⟩ := h
    exact ⟨rfl, hpack (by exact hop) 0 0⟩
  case h_2 | h_3 =>
    obtain rfl := h
    exact ⟨rfl, hpack (by exact hop) a b⟩
  case h_6 =>
    obtain ⟨rfl, rfl⟩ := h
    exact ⟨rfl, hpack (by exact hop) a 0⟩
  case h_9 =>
    obtain ⟨rfl, hr, rfl⟩ := h
    exact ⟨beq_iff_eq.mpr hr, hpack (by exact hop) a 0⟩

/-- Settles O4: the command the opcode selects encodes to the word packed from the fields, which is the word itself. -/
theorem encodeDecodeRoundTrip : Obligations.EncodeDecodeRoundTrip := by
  intro cw i hdecode
  obtain ⟨hz, hsel⟩ := decode_eq_ok.mp hdecode
  obtain ⟨hwf, hencode⟩ := selectOpcode_eq_some hsel
  exact ⟨hwf, hencode.trans (packWord_fields hz)⟩

/-- Settles O1: each listed word is the encoding of its command. -/
theorem listedWordsDecode : Obligations.ListedWordsDecode :=
  ⟨decodeEncodeRoundTrip .perm rfl, decodeEncodeRoundTrip (.subkey 32 16) rfl,
    decodeEncodeRoundTrip (.ksInit 32 24) rfl, decodeEncodeRoundTrip .ksSetctr rfl, decodeEncodeRoundTrip .ksNext rfl,
    decodeEncodeRoundTrip (.ksCrypt 255) rfl, decodeEncodeRoundTrip .sipInit rfl, decodeEncodeRoundTrip .sipBlock rfl,
    decodeEncodeRoundTrip (.sipFinal 7) rfl⟩

/-! ### Legal words -/

/-- The tail length of `SIP.FINAL` fits `A[2:0]` exactly when `A[7:3]` is 0. -/
theorem wellFormed_sipFinal (r : Byte) : (Instr.sipFinal r).wellFormed = true ↔ r.toNat < 8 := by
  rw [Instr.wellFormed, beq_iff_eq, ← BitVec.toNat_inj, BitVec.extractLsb'_toNat, Nat.shiftRight_eq_div_pow]
  have hr := r.isLt
  simp
  omega

/-- The encoding of a well-formed command is legal. -/
theorem not_illegalWord_encode {i : Instr} (hi : i.wellFormed = true) : ¬ IllegalWord (encode i) := by
  cases i with
  | sipFinal r =>
    have hr := (wellFormed_sipFinal r).mp hi
    simp [IllegalWord, encode, z_packWord, op_packWord, a_packWord, b_packWord, hr]
  | perm | subkey | ksInit | ksSetctr | ksNext | ksCrypt | sipInit | sipBlock =>
    simp [IllegalWord, encode, z_packWord, op_packWord, a_packWord, b_packWord]

/-- A legal word is the encoding of a well-formed command: its opcode names the command, and the fields the command does
not use are 0. -/
theorem exists_encode_of_legal {cw : W32} (h : ¬ IllegalWord cw) :
    ∃ i : Instr, i.wellFormed = true ∧ encode i = cw := by
  simp only [IllegalWord, not_or, not_and, not_not, not_le] at h
  obtain ⟨hz, hop, hnone, hcrypt, hfinal⟩ := h
  rw [← packWord_fields hz]
  have hunused (h : CW.op cw ∈ [0x01, 0x11, 0x12, 0x20, 0x21]) :
      packWord (CW.op cw) 0 0 = packWord (CW.op cw) (CW.a cw) (CW.b cw) := by
    obtain ⟨ha, hb⟩ := hnone h
    rw [ha, hb]
  generalize CW.op cw = op at *
  simp only [List.mem_cons, List.not_mem_nil, or_false] at hop
  rcases hop with rfl | rfl | rfl | rfl | rfl | rfl | rfl | rfl | rfl
  · exact ⟨.perm, rfl, hunused (by decide)⟩
  · exact ⟨.subkey (CW.a cw) (CW.b cw), rfl, rfl⟩
  · exact ⟨.ksInit (CW.a cw) (CW.b cw), rfl, rfl⟩
  · exact ⟨.ksSetctr, rfl, hunused (by decide)⟩
  · exact ⟨.ksNext, rfl, hunused (by decide)⟩
  · exact ⟨.ksCrypt (CW.a cw), rfl, by rw [hcrypt rfl, encode]⟩
  · exact ⟨.sipInit, rfl, hunused (by decide)⟩
  · exact ⟨.sipBlock, rfl, hunused (by decide)⟩
  · obtain ⟨hr, hb⟩ := hfinal rfl
    exact ⟨.sipFinal (CW.a cw), (wellFormed_sipFinal _).mpr hr, by rw [hb, encode]⟩

/-- Settles O5: the words the decoder accepts and the legal words are both the encodings of the well-formed commands. -/
theorem decoderAcceptsExactlyTheLegalWords : Obligations.DecoderAcceptsExactlyTheLegalWords := by
  intro cw
  constructor
  · rintro ⟨i, hdecode⟩
    obtain ⟨hi, rfl⟩ := encodeDecodeRoundTrip cw i hdecode
    exact not_illegalWord_encode hi
  · intro hlegal
    obtain ⟨i, hi, rfl⟩ := exists_encode_of_legal hlegal
    exact ⟨i, decodeEncodeRoundTrip i hi⟩

end Sys2Proof.Machine
end

section
/-! SUPPORT. What every command word and payload is answered with (30_encoding.md rules R72 and R74 to R78): an illegal
word and a wrong payload length are refused, a result has the length its word implies, and under the invariant no step
stops. -/

namespace Sys2Proof.Machine

/-! ### Refused words and payloads -/

/-- Settles O7: the decoder rejects an illegal word, and the step then raises `IllegalCommand` with the payload unread. -/
theorem illegalWordIsRefused : Obligations.IllegalWordIsRefused := by
  intro s cw din later hhost hillegal
  cases hdecode : decode cw with
  | ok i => exact absurd hillegal ((decoderAcceptsExactlyTheLegalWords cw).mp ⟨i, hdecode⟩)
  | error e =>
    rw [step_illegal hhost hdecode]
    rfl

/-- Every command begins with the check of its payload. -/
theorem exec_eq_withPayload (i : Instr) (s : State) : ∃ rest, exec i s = withPayload i s rest := by
  cases i <;> exact ⟨_, rfl⟩

/-- Settles O8: every command begins with the check of its payload, which another length fails. -/
theorem wrongPayloadLengthIsRefused : Obligations.WrongPayloadLengthIsRefused := by
  intro i s hlen
  obtain ⟨rest, hexec⟩ := exec_eq_withPayload i s
  rw [hexec, withPayload_fail rest hlen]
  rfl

/-- Settles O9: the table of R74, row by row, by the definition of `payloadLength`. -/
theorem payloadLengthTable : Obligations.PayloadLengthTable :=
  ⟨rfl, fun _ _ => rfl, fun _ _ => rfl, rfl, rfl, fun _ => rfl, rfl, rfl, fun _ => rfl⟩

/-! ### The length of a result -/

@[simp] theorem length_bytesOf {n : Nat} (x : Vector W32 n) : (bytesOf x).length = 4 * n := by
  simp [bytesOf, List.length_flatMap, Nat.mul_comm]

@[simp] theorem length_subkey (key pre : List Byte) : (subkey key pre).length = 32 := by
  rw [subkey, length_bytesOf]

/-- As many bytes come out as go in. -/
theorem length_xorStream {data out : List Byte} {s t : State} (h : xorStream data s = some (out, t)) :
    out.length = data.length := by
  induction data generalizing s out with
  | nil =>
    simp only [xorStream_nil, Option.some.injEq, Prod.mk.injEq] at h
    simp [← h.1]
  | cons d data ih =>
    obtain ⟨b, s1, rest, -, hrest, rfl⟩ := xorStream_cons_eq_some h
    rw [List.length_cons, List.length_cons, ih hrest]

/-- A command that succeeds returns `RL` bytes (R74). -/
theorem Effect.length_dout {i : Instr} {s u : State} {dout : List Byte} (he : Effect i s dout u)
    (hlen : s.DIN.length = payloadLength i) : dout.length = resultLength i := by
  cases i with
  | perm =>
    obtain ⟨rfl, -⟩ := he
    exact length_bytesOf _
  | subkey klen plen =>
    obtain ⟨-, -, rfl, -⟩ := he
    exact length_subkey _ _
  | ksInit klen nlen =>
    obtain ⟨-, -, rfl, -⟩ := he
    rfl
  | ksNext =>
    obtain ⟨-, b, -, rfl⟩ := he
    rfl
  | ksCrypt n =>
    obtain ⟨-, hx⟩ := he
    exact (length_xorStream hx).trans hlen
  | sipInit =>
    obtain ⟨rfl, -⟩ := he
    rfl
  | ksSetctr | sipBlock | sipFinal =>
    obtain ⟨-, rfl, -⟩ := he
    rfl

/-- No error has the code of success (R191). -/
theorem Raisable.code_ne {e : Status} (h : Raisable e) : e.code ≠ 0x00 := by
  rcases h with rfl | rfl | rfl | rfl <;> decide

/-- Settles O10: an error answers with a code other than 0 and no bytes, a success with 0 and the result of its effect. -/
theorem resultLength_of_exec : Obligations.ResultLength := by
  intro i s t hexec
  rcases exec_cases i s with ⟨e, he, hraise⟩ | ⟨hfault, -⟩ | ⟨dout, u, hanswer, -, hlen, heffect⟩
  · rw [hraise, raise_eq, Host.Outcome.next.injEq] at hexec
    exact ⟨⟨e.code, []⟩, by rw [← hexec, respond_answers], fun h => absurd h he.code_ne, fun _ => rfl⟩
  · simp [hfault] at hexec
  · rw [hanswer, answer_eq, Host.Outcome.next.injEq] at hexec
    obtain ⟨-, hanswers, -⟩ := heffect.frame
    exact ⟨okResponse dout, by rw [← hexec, respond_answers, hanswers]; rfl, fun _ => heffect.length_dout hlen,
      fun h => absurd rfl h⟩

/-! ### No step stops -/

/-- From a cursor of at most 64 there is a next byte. -/
theorem nextByte_ne_none {s : State} (hcur : s.CUR.toNat ≤ 64) : s.nextByte ≠ none := by
  rcases nextByte_cases s with ⟨-, _, hb⟩ | ⟨-, hb⟩ | ⟨hbeyond, -⟩
  · simp [hb]
  · simp [hb]
  · omega

/-- Under the invariant a command goes on: it could stop in a context only, where the cursor is at most 64. -/
theorem Inv.exec_next {s : State} (h : Inv s) (i : Instr) : ∃ t, exec i s = .next t := by
  rcases exec_cases i s with ⟨e, -, hraise⟩ | ⟨-, hk, -, hnone⟩ | ⟨dout, u, hanswer, -⟩
  · exact ⟨_, hraise⟩
  · obtain ⟨hcur, -⟩ := h hk
    rcases hnone with ⟨-, hb⟩ | ⟨-, -, hx⟩
    · exact absurd hb (nextByte_ne_none hcur)
    · obtain ⟨out, t, hsome⟩ := exists_xorStream s.DIN hcur
      simp [hsome] at hx
  · exact ⟨_, hanswer⟩

/-- Settles O59: waiting, a reset and an illegal word always go on, and a command does under the invariant, which
presenting it keeps. -/
theorem everyStepGoesOn : Obligations.EveryStepGoesOn := by
  intro s h
  rcases hhost : s.host with _ | ⟨_ | ⟨cw, din⟩, later⟩
  · exact ⟨s, by rw [step, fetch_idle hhost]⟩
  · exact ⟨s.resetBy later, by rw [step, fetch_reset hhost]⟩
  · cases hdecode : decode cw with
    | error e => exact ⟨_, step_illegal hhost hdecode⟩
    | ok i =>
      obtain ⟨t, ht⟩ := (h.of_sameCipher (sameCore_present din later s).1).exec_next i
      exact ⟨t, (step_run hhost hdecode).trans ht⟩

end Sys2Proof.Machine
end

section
/-! SUPPORT. Runs of commands the host issues one after another (30_encoding.md rule R70), and the keystream bytes a state
gives as a function of its unit K items. -/

namespace Sys2Proof.Machine

/-! ### Runs -/

/-- A run that goes on is continued by the rest of the run. -/
theorem run_add_of_next {j : Nat} (k : Nat) {s t : State} (h : core.run j s = .next t) :
    core.run (j + k) s = core.run k t := by
  induction j generalizing s with
  | zero =>
    obtain rfl : s = t := Host.Outcome.next.inj h
    rw [Nat.zero_add]
  | succ j ih =>
    rw [Nat.add_right_comm]
    cases hstep : step s with
    | next s1 =>
      rw [run_succ_of_next _ hstep] at h ⊢
      exact ih h
    | fault f => simp [run_succ_of_fault j hstep] at h
    | refused f => simp [run_succ_of_refused j hstep] at h

/-- A run begins with the command the host issues next, when that command succeeds. -/
theorem run_issue {s u : State} {i : Instr} {din dout : List Byte} {later : List HostMove} (k : Nat)
    (hhost : s.host = issue i din :: later) (hi : i.wellFormed = true)
    (hexec : exec i (s.present din later) = answer dout u) :
    core.run (k + 1) s = core.run k (u.respond .ok dout) :=
  run_succ_of_next k ((step_run hhost (decodeEncodeRoundTrip i hi)).trans hexec)

/-- A byte string of fewer than 256 bytes has its length in the length field (R80). -/
theorem toNat_lengthField {b : List Byte} (h : b.length < 256) : (lengthField b).toNat = b.length := by
  rw [lengthField, BitVec.toNat_ofNat, Nat.mod_eq_of_lt h]

/-! ### Keystream bytes -/

theorem SameCipher.trans {s t u : State} (hst : SameCipher s t) (htu : SameCipher t u) : SameCipher s u := by
  obtain ⟨hS, hBUF, hCUR, hKSV⟩ := hst
  obtain ⟨hS', hBUF', hCUR', hKSV'⟩ := htu
  exact ⟨hS.trans hS', hBUF.trans hBUF', hCUR.trans hCUR', hKSV.trans hKSV'⟩

theorem SameHash.trans {s t u : State} (hst : SameHash s t) (htu : SameHash t u) : SameHash s u := by
  obtain ⟨hV, hLEN, hSIPA⟩ := hst
  obtain ⟨hV', hLEN', hSIPA'⟩ := htu
  exact ⟨hV.trans hV', hLEN.trans hLEN', hSIPA.trans hSIPA'⟩

theorem SameHash.symm {s t : State} (h : SameHash s t) : SameHash t s := by
  obtain ⟨hV, hLEN, hSIPA⟩ := h
  exact ⟨hV.symm, hLEN.symm, hSIPA.symm⟩

/-- A keystream byte depends on the unit K items alone, and so does what it leaves of them. -/
theorem nextByte_sameCipher {s t s1 : State} {b : Byte} (h : SameCipher s t) (hb : s.nextByte = some (b, s1)) :
    ∃ t1, t.nextByte = some (b, t1) ∧ SameCipher s1 t1 := by
  obtain ⟨hS, hBUF, hCUR, hKSV⟩ := h
  rcases nextByte_cases s with ⟨-, hserving, hnext⟩ | ⟨hfresh, hnext⟩ | ⟨-, hnext⟩ <;> rw [hnext] at hb
  · obtain ⟨rfl, rfl⟩ := Prod.mk.inj (Option.some.inj hb)
    refine ⟨t.advance, ?_, hS, hBUF, congrArg (· + 1) hCUR, hKSV⟩
    simp only [nextByte_serving (hCUR ▸ hserving), hBUF, hCUR]
  · obtain ⟨rfl, rfl⟩ := Prod.mk.inj (Option.some.inj hb)
    refine ⟨t.refill.advance, ?_, congrArg incrementCounter hS, congrArg keystreamBlock hS, rfl, hKSV⟩
    rw [nextByte_fresh (hCUR ▸ hfresh), hS]
  · simp at hb

/-- Any number of keystream bytes depend on the unit K items alone. -/
theorem xorStream_sameCipher {data out : List Byte} {s t u : State} (h : SameCipher s t)
    (hx : xorStream data s = some (out, u)) : ∃ v, xorStream data t = some (out, v) ∧ SameCipher u v := by
  induction data generalizing s t out with
  | nil =>
    obtain ⟨rfl, rfl⟩ := Prod.mk.inj (Option.some.inj hx)
    exact ⟨t, rfl, h⟩
  | cons d data ih =>
    obtain ⟨b, s1, rest, hb, hrest, rfl⟩ := xorStream_cons_eq_some hx
    obtain ⟨t1, hb', h1⟩ := nextByte_sameCipher h hb
    obtain ⟨v, hrest', huv⟩ := ih h1 hrest
    exact ⟨v, by simp [xorStream_cons, hb', hrest'], huv⟩

/-- The output for two pieces of data is made piece after piece (R140). -/
theorem xorStream_append_eq_some {a b out : List Byte} {s t : State} (h : xorStream (a ++ b) s = some (out, t)) :
    ∃ outa s1 outb, xorStream a s = some (outa, s1) ∧ xorStream b s1 = some (outb, t) ∧ out = outa ++ outb := by
  induction a generalizing s out with
  | nil => exact ⟨[], s, out, rfl, h, rfl⟩
  | cons d a ih =>
    obtain ⟨k, s1, rest, hk, hrest, rfl⟩ := xorStream_cons_eq_some h
    obtain ⟨outa, s2, outb, ha, hb, rfl⟩ := ih hrest
    exact ⟨(d ^^^ k) :: outa, s2, outb, by simp [xorStream_cons, hk, ha], hb, rfl⟩

/-- The output is the data XORed with as many keystream bytes (R139). -/
theorem takeBytes_of_xorStream {data out : List Byte} {s t : State} (h : xorStream data s = some (out, t)) :
    ∃ ks, takeBytes data.length s = some (ks, t) ∧ ks.length = data.length ∧
      out = List.zipWith (· ^^^ ·) data ks := by
  induction data generalizing s out with
  | nil =>
    obtain ⟨rfl, rfl⟩ := Prod.mk.inj (Option.some.inj h)
    exact ⟨[], rfl, rfl, rfl⟩
  | cons d data ih =>
    obtain ⟨b, s1, rest, hb, hrest, rfl⟩ := xorStream_cons_eq_some h
    obtain ⟨ks, htake, hlen, rfl⟩ := ih hrest
    exact ⟨b :: ks, by simp [takeBytes_succ, hb, htake], by simp [hlen], rfl⟩

end Sys2Proof.Machine
end

section
/-! SUPPORT. The expansion of `encrypt` (30_encoding.md rule R86): the pieces of the input in order, and the run of one
`KS.CRYPT` for each. -/

namespace Sys2Proof.Machine

/-! ### The pieces -/

theorem length_pieces (k : Nat) (input : List Byte) : (pieces k input).length = (input.length + (k - 1)) / k := by
  simp [pieces]

theorem length_le_of_mem_pieces {k : Nat} {input p : List Byte} (h : p ∈ pieces k input) : p.length ≤ k := by
  obtain ⟨i, -, rfl⟩ := List.mem_map.mp h
  exact List.length_take_le _ _

/-- The first `n` pieces of `k` bytes, put together, are the first `k * n` bytes. -/
theorem flatten_slices (k n : Nat) (input : List Byte) :
    ((List.range n).map fun i => slice input (k * i) k).flatten = input.take (k * n) := by
  induction n with
  | zero => simp
  | succ n ih =>
    rw [List.range_succ, List.map_append, List.flatten_append, ih, Nat.mul_succ, List.take_add]
    simp [slice]

/-- The pieces, put together, are the input. -/
theorem flatten_pieces {k : Nat} (hk : 0 < k) (input : List Byte) : (pieces k input).flatten = input := by
  rw [pieces, flatten_slices]
  refine List.take_of_length_le ?_
  have hdiv := Nat.div_add_mod (input.length + (k - 1)) k
  have hmod := Nat.mod_lt (input.length + (k - 1)) hk
  omega

/-! ### The run -/

/-- The command `encrypt` issues for a piece (R86). -/
def cryptMove (data : List Byte) : HostMove := issue (.ksCrypt (lengthField data)) data

theorem encryptMoves_eq (input : List Byte) : encryptMoves input = (pieces 255 input).map cryptMove := rfl

/-- A run of one `KS.CRYPT` per piece gives the output of the pieces put together, and leaves unit K as that output leaves
it and unit S alone, however the data was cut (R140). -/
theorem run_cryptMoves {ps : List (List Byte)} (hps : ∀ p ∈ ps, p.length < 256) {s u : State} {out : List Byte}
    {later : List HostMove} (hhost : s.host = ps.map cryptMove ++ later) (hk : s.KSV = true)
    (hx : xorStream ps.flatten s = some (out, u)) :
    ∃ (t : State) (rs : List Response), core.run ps.length s = .next t ∧ t.host = later ∧
      SameCipher u t ∧ SameHash s t ∧ t.answers = s.answers ++ rs ∧ joinedResult rs = out := by
  induction ps generalizing s u out with
  | nil =>
    obtain ⟨rfl, rfl⟩ := Prod.mk.inj (Option.some.inj hx)
    exact ⟨s, [], rfl, hhost, ⟨rfl, rfl, rfl, rfl⟩, ⟨rfl, rfl, rfl⟩, (List.append_nil _).symm, rfl⟩
  | cons p ps ih =>
    obtain ⟨hp, hps⟩ := List.forall_mem_cons.mp hps
    obtain ⟨outp, s1, outs, hxp, hxs, rfl⟩ := xorStream_append_eq_some hx
    obtain ⟨v, hxp', h1⟩ := xorStream_sameCipher (sameCore_present p (ps.map cryptMove ++ later) s).1 hxp
    obtain ⟨hhash, hKSV, -, hlater, hanswers⟩ := streamFrame_xorStream hxp'
    obtain ⟨w, hxs', huw⟩ := xorStream_sameCipher (h1.trans (sameCore_respond .ok outp v).1) hxs
    obtain ⟨t, rs, hrun, hthost, hwt, hvt, htanswers, hrs⟩ :=
      ih hps (s := v.respond .ok outp) hlater (hKSV.trans hk) hxs'
    have hexec : exec (.ksCrypt (lengthField p)) (s.present p (ps.map cryptMove ++ later)) = answer outp v := by
      rw [exec_ksCrypt_ready (s := s.present p _) hk (toNat_lengthField hp).symm, present_DIN, hxp']
      rfl
    refine ⟨t, okResponse outp :: rs, (run_issue _ hhost rfl hexec).trans hrun, hthost, huw.trans hwt,
      hhash.trans hvt, ?_, ?_⟩
    · rw [htanswers, respond_answers, hanswers, present_answers, List.append_assoc]
      rfl
    · rw [← hrs]
      rfl

/-- Settles O45: the pieces are at most 255 bytes and together the input, so the run gives the output of the whole input,
which is the input XORed with as many keystream bytes. -/
theorem encryptExpansion : Obligations.EncryptExpansion := by
  intro s input later hhost hk hcur
  have hlen : (encryptMoves input).length = (pieces 255 input).length := List.length_map _
  refine ⟨hlen.trans (length_pieces 255 input), ?_⟩
  obtain ⟨out, u, hx⟩ := exists_xorStream input hcur
  obtain ⟨ks, htake, hks, rfl⟩ := takeBytes_of_xorStream hx
  have hsmall (p : List Byte) (hp : p ∈ pieces 255 input) : p.length < 256 :=
    Nat.lt_succ_of_le (length_le_of_mem_pieces hp)
  obtain ⟨t, rs, hrun, hthost, hcipher, hhash, hanswers, hrs⟩ :=
    run_cryptMoves hsmall hhost hk ((congrArg (xorStream · s) (flatten_pieces (by decide) input)).trans hx)
  obtain ⟨hsu, -⟩ := streamFrame_xorStream hx
  refine ⟨ks, u, t, htake, hks, hlen ▸ hrun, hthost, ⟨hcipher, hsu.symm.trans hhash⟩, ?_⟩
  rw [hanswers, List.drop_left, hrs]

end Sys2Proof.Machine
end

section
/-! SUPPORT. The expansion of `siphash24` (30_encoding.md rule R88): the three commands of unit S when they are accepted,
the run of one `SIP.BLOCK` per full chunk, and the whole sequence. -/

namespace Sys2Proof.Machine

/-! ### The chunks of a message -/

theorem length_fullChunks (input : List Byte) : (fullChunks input).length = input.length / 8 := by
  simp [fullChunks]

theorem length_of_mem_fullChunks {input m : List Byte} (h : m ∈ fullChunks input) : m.length = 8 := by
  obtain ⟨i, hi, rfl⟩ := List.mem_map.mp h
  rw [List.mem_range] at hi
  rw [slice, List.length_take, List.length_drop]
  omega

theorem length_lastBytes (input : List Byte) : (lastBytes input).length = input.length % 8 := by
  rw [lastBytes, List.length_drop]
  omega

/-! ### The hash commands when they are accepted -/

theorem exec_sipInit_accepted {s : State} (hlen : s.DIN.length = 16) :
    exec .sipInit s = answer [] (s.beginHash s.DIN) := by
  rw [exec_sipInit, execSipInit, withPayload_pass _ rfl hlen]

theorem exec_sipBlock_ready {s : State} (hh : s.SIPA = true) (hlen : s.DIN.length = 8) :
    exec .sipBlock s = answer [] (s.absorbChunk s.DIN) := by
  show execSipBlock s = _
  rw [execSipBlock, withPayload_pass _ rfl hlen, State.hashReady, hh, require_true]

theorem exec_sipFinal_ready {s : State} {r : Byte} (hr : r.toNat < 8) (hh : s.SIPA = true)
    (hlen : s.DIN.length = r.toNat) :
    exec (.sipFinal r) s = answer (st64 (sipDigest (s.endHash s.DIN r).V)) (s.endHash s.DIN r) := by
  show execSipFinal r s = _
  rw [execSipFinal, withPayload_pass _ ((wellFormed_sipFinal r).mpr hr) hlen, State.hashReady, hh, require_true]

/-! ### The run -/

/-- The hash state after chunks absorbed one after another (R169). -/
def absorbAll (ms : List (List Byte)) (v : Vector W64 4) : Vector W64 4 :=
  ms.foldl (fun v m => sipAbsorb (le64 m) v) v

/-- A run of one `SIP.BLOCK` per chunk absorbs the chunks, counts their bytes, and leaves unit K alone. -/
theorem run_sipBlocks {ms : List (List Byte)} (hms : ∀ m ∈ ms, m.length = 8) {s : State} {later : List HostMove}
    (hhost : s.host = ms.map (issue .sipBlock) ++ later) (hh : s.SIPA = true) :
    ∃ t : State, core.run ms.length s = .next t ∧ t.host = later ∧ SameCipher s t ∧ t.SIPA = true ∧
      t.V = absorbAll ms s.V ∧ t.LEN = s.LEN + BitVec.ofNat 8 (8 * ms.length) ∧
      t.answers = s.answers ++ List.replicate ms.length (okResponse []) := by
  induction ms generalizing s with
  | nil => exact ⟨s, rfl, hhost, ⟨rfl, rfl, rfl, rfl⟩, hh, rfl, (BitVec.add_zero _).symm, (List.append_nil _).symm⟩
  | cons m ms ih =>
    obtain ⟨hm, hms⟩ := List.forall_mem_cons.mp hms
    have hexec := exec_sipBlock_ready (s := s.present m (ms.map (issue .sipBlock) ++ later)) hh hm
    obtain ⟨t, hrun, hthost, hcipher, hSIPA, hV, hLEN, hanswers⟩ :=
      ih hms (s := ((s.present m _).absorbChunk m).respond .ok []) rfl hh
    refine ⟨t, (run_issue _ hhost rfl hexec).trans hrun, hthost, hcipher, hSIPA, hV, ?_, ?_⟩
    · rw [hLEN, respond_LEN, absorbChunk_LEN, present_LEN, BitVec.add_assoc, List.length_cons, Nat.mul_succ,
        Nat.add_comm, BitVec.ofNat_add]
      rfl
    · rw [hanswers, respond_answers, absorbChunk_answers, present_answers, List.append_assoc, List.length_cons,
        List.replicate_succ]
      rfl

/-- The command `siphash24` issues last, for the bytes after the full chunks (R88). -/
def finalMove (input : List Byte) : HostMove := issue (.sipFinal (lengthField (lastBytes input))) (lastBytes input)

theorem siphash24Moves_append (input key : List Byte) (later : List HostMove) :
    siphash24Moves input key ++ later =
      issue .sipInit key :: ((fullChunks input).map (issue .sipBlock) ++ finalMove input :: later) := by
  simp [siphash24Moves, finalMove]

theorem length_siphash24Moves (input key : List Byte) :
    (siphash24Moves input key).length = (fullChunks input).length + 1 + 1 := by
  simp [siphash24Moves]

/-- The bytes counted chunk by chunk and the tail are the message length modulo 256 (R168, R169). -/
theorem chunks_and_tail_length (input : List Byte) :
    BitVec.ofNat 8 (8 * (fullChunks input).length) + lengthField (lastBytes input) = BitVec.ofNat 8 input.length := by
  rw [lengthField, ← BitVec.ofNat_add, length_fullChunks, length_lastBytes, Nat.div_add_mod]

/-- The last command absorbs the final word and returns the digest. -/
theorem run_finalMove {s : State} {input : List Byte} {later : List HostMove} (hhost : s.host = finalMove input :: later)
    (hh : s.SIPA = true) :
    ∃ t : State, core.run 1 s = .next t ∧ t.host = later ∧ SameCipher s t ∧ t.SIPA = false ∧
      t.answers = s.answers ++ [okResponse (st64 (sipDigest (sipFinish (sipAbsorb
        (finalWord (lastBytes input) (s.LEN + lengthField (lastBytes input))) s.V))))] := by
  have hlast := length_lastBytes input
  have htail : (lengthField (lastBytes input)).toNat = (lastBytes input).length := toNat_lengthField (by omega)
  have hshort : (lengthField (lastBytes input)).toNat < 8 := by omega
  have hexec := exec_sipFinal_ready (s := s.present (lastBytes input) later) hshort hh htail.symm
  exact ⟨_, run_issue 0 hhost ((wellFormed_sipFinal _).mpr hshort) hexec, rfl, ⟨rfl, rfl, rfl, rfl⟩, rfl, rfl⟩

/-- Settles O52: `SIP.INIT` seeds the hash, the blocks absorb the full chunks, and `SIP.FINAL` has counted the whole
length when it absorbs the final word. -/
theorem sipHashSequenceComputesSipHash24 : Obligations.SipHashSequenceComputesSipHash24 := by
  intro s input key later hkey hhost
  rw [siphash24Moves_append] at hhost
  have hinit := run_issue (s := s) ((fullChunks input).length + 1) hhost rfl (exec_sipInit_accepted hkey)
  obtain ⟨t, hblocks, hthost, hst, hSIPA, hV, hLEN, hanswers⟩ :=
    run_sipBlocks (ms := fullChunks input) (fun _ => length_of_mem_fullChunks)
      (s := ((s.present key _).beginHash key).respond .ok []) rfl rfl
  obtain ⟨u, hfinal, huhost, htu, hclear, huanswers⟩ := run_finalMove hthost hSIPA
  refine ⟨u, ?_, huhost, SameCipher.trans hst htu, hclear, ?_⟩
  · rw [length_siphash24Moves]
    exact hinit.trans ((run_add_of_next 1 hblocks).trans hfinal)
  · have hword : t.LEN + lengthField (lastBytes input) = BitVec.ofNat 8 input.length := by
      rw [hLEN, ← chunks_and_tail_length]
      exact congrArg (· + _) (BitVec.zero_add _)
    rw [huanswers, hword, hV, hanswers, length_fullChunks]
    simp [List.replicate_succ, sipHash24, absorbAll, Status.code]

end Sys2Proof.Machine
end

section
/-! SUPPORT. Unit P (40_permutation.md rules R100, R102 to R104): what a quarter-round reads and writes, that each of
its statements can be undone, and the result of `PERM`. -/

namespace Sys2Proof.Machine

/-! ### Rotations -/

/-- The rotation of R11 by fewer bits than the word has. -/
theorem rotl_eq_rotateLeft {w n : Nat} (hn : n < w) (x : BitVec w) : rotl x n = x.rotateLeft n :=
  (BitVec.rotateLeft_eq_rotateLeftAux_of_lt hn).symm

/-- A rotation is undone by the rotation the other way. -/
def rotatePerm (w n : Nat) : Equiv.Perm (BitVec w) where
  toFun x := x.rotateLeft n
  invFun x := x.rotateRight n
  left_inv x := by
    ext i hi
    have hn : n % w < w := Nat.mod_lt n (by omega)
    rw [BitVec.getElem_rotateRight hi]
    split <;> rw [BitVec.getElem_rotateLeft]
    · simp [show ¬ n % w + i < n % w by omega]
    · simp [show i - (w - n % w) < n % w by omega, show w - n % w + (i - (w - n % w)) = i by omega]
  right_inv x := by
    ext i hi
    have hn : n % w < w := Nat.mod_lt n (by omega)
    rw [BitVec.getElem_rotateLeft hi]
    split <;> rw [BitVec.getElem_rotateRight]
    · simp [show ¬ w - n % w + i < w - n % w by omega]
    · simp [show i - n % w < w - n % w by omega, show n % w + (i - n % w) = i by omega]

/-- Exclusive or with a word is undone by itself. -/
def xorPerm {w : Nat} (c : BitVec w) : Equiv.Perm (BitVec w) :=
  Function.Involutive.toPerm (· ^^^ c) fun x => by simp

/-! ### The words a quarter-round reads and writes -/

/-- What each word is after one line of the quarter-round. -/
theorem getElem_mix {a d : Fin 16} (had : a ≠ d) (b : Fin 16) {n : Nat} (hn : n < 32) (x : Vector W32 16)
    (j : Fin 16) :
    (mix a b d n x)[j] =
      if j = d then (x[d] ^^^ (x[a] + x[b])).rotateLeft n else if j = a then x[a] + x[b] else x[j] := by
  simp only [mix, ← rotl_eq_rotateLeft hn, Fin.getElem_fin, Vector.getElem_set, Fin.val_inj, eq_comm (a := j),
    if_neg had, if_true]

/-- Settles O21: the quarter-round is its four lines, each of which writes two words. -/
theorem quarterRoundStatements : Obligations.QuarterRoundStatements := by
  intro x a b c d hab hac had hbc hbd hcd
  refine ⟨?_, ?_, ?_, ?_, fun j hja hjb hjc hjd => ?_⟩
  case refine_5 => simp [-Fin.getElem_fin, quarterRound, getElem_mix, had, hbc.symm, hja, hjb, hjc, hjd]
  all_goals simp [-Fin.getElem_fin, quarterRound, getElem_mix, hab, hab.symm, hac, hac.symm, had, hbc.symm, hbd,
    hbd.symm, hcd, hcd.symm]

theorem different_of_nodup {a b c d : Fin 16} (h : [a, b, c, d].Nodup) :
    (a ≠ b ∧ a ≠ c ∧ a ≠ d) ∧ (b ≠ c ∧ b ≠ d) ∧ c ≠ d := by
  simpa using h

/-- A map of 16-word arrays that reads and writes the words of `is` alone. -/
def ActsOn (is : List (Fin 16)) (f : Vector W32 16 → Vector W32 16) : Prop :=
  (∀ x, ∀ j ∉ is, (f x)[j] = x[j]) ∧
    ∀ x y : Vector W32 16, (∀ j ∈ is, x[j] = y[j]) → ∀ j ∈ is, (f x)[j] = (f y)[j]

/-- "The other 12 words of `x` are not read and not written" (R100). -/
theorem quarterRound_actsOn {a b c d : Fin 16} (h : [a, b, c, d].Nodup) :
    ActsOn [a, b, c, d] (quarterRound a b c d) := by
  obtain ⟨⟨hab, hac, had⟩, ⟨hbc, hbd⟩, hcd⟩ := different_of_nodup h
  have statements (x : Vector W32 16) := quarterRoundStatements x a b c d hab hac had hbc hbd hcd
  constructor
  · intro x j hj
    obtain ⟨-, -, -, -, hframe⟩ := statements x
    simp only [List.mem_cons, List.not_mem_nil, or_false, not_or] at hj
    obtain ⟨hja, hjb, hjc, hjd⟩ := hj
    exact hframe j hja hjb hjc hjd
  · intro x y hxy
    obtain ⟨hxa, hxb, hxc, hxd, -⟩ := statements x
    obtain ⟨hya, hyb, hyc, hyd, -⟩ := statements y
    simp only [List.forall_mem_cons] at hxy ⊢
    obtain ⟨ha, hb, hc, hd, -⟩ := hxy
    rw [hxa, hxb, hxc, hxd, hya, hyb, hyc, hyd, ha, hb, hc, hd]
    exact ⟨rfl, rfl, rfl, rfl, List.forall_mem_nil _⟩

/-- In the words of `is`, a map that acts on `is` does not see a map before it or after it that acts on other words. -/
theorem ActsOn.getElem_comm {is js : List (Fin 16)} {f g : Vector W32 16 → Vector W32 16} (hf : ActsOn is f)
    (hg : ActsOn js g) (h : is.Disjoint js) (x : Vector W32 16) {j : Fin 16} (hj : j ∈ is) :
    (f (g x))[j] = (g (f x))[j] := by
  obtain ⟨-, hfread⟩ := hf
  obtain ⟨hgframe, -⟩ := hg
  calc (f (g x))[j] = (f x)[j] := hfread _ _ (fun k hk => hgframe x k (h hk)) j hj
    _ = (g (f x))[j] := (hgframe (f x) j (h hj)).symm

/-- Maps that act on disjoint sets of words commute. -/
theorem ActsOn.comm {is js : List (Fin 16)} {f g : Vector W32 16 → Vector W32 16} (hf : ActsOn is f)
    (hg : ActsOn js g) (h : is.Disjoint js) (x : Vector W32 16) : f (g x) = g (f x) := by
  have hword (j : Fin 16) : (f (g x))[j] = (g (f x))[j] := by
    by_cases hi : j ∈ is
    · exact hf.getElem_comm hg h x hi
    by_cases hj : j ∈ js
    · exact (hg.getElem_comm hf h.symm x hj).symm
    · obtain ⟨hfframe, -⟩ := hf
      obtain ⟨hgframe, -⟩ := hg
      rw [hfframe _ j hi, hgframe _ j hj, hgframe _ j hj, hfframe _ j hi]
  exact Vector.ext fun j hj => hword ⟨j, hj⟩

/-- Settles O23: each quarter-round acts on its own four words. -/
theorem disjointQuarterRoundsCommute : Obligations.DisjointQuarterRoundsCommute := by
  intro x a b c d e f g h hnodup
  have hsplit : ([a, b, c, d] ++ [e, f, g, h]).Nodup := hnodup
  exact (quarterRound_actsOn hsplit.of_append_left).comm (quarterRound_actsOn hsplit.of_append_right) hsplit.disjoint x

/-! ### The permutation is undone statement by statement -/

/-- A statement that puts a permuted word in its own place can be undone, where the permutation depends on the other
words only. -/
theorem set_perm_bijective (i : Fin 16) (e : Vector W32 16 → Equiv.Perm W32) (he : ∀ x v, e (x.set i v) = e x) :
    Function.Bijective fun x : Vector W32 16 => x.set i (e x x[i]) :=
  Function.bijective_iff_has_inverse.mpr
    ⟨fun x => x.set i ((e x).symm x[i]), fun x => by simp [he], fun x => by simp [he]⟩

/-- One line of the quarter-round is undone: rotate right, exclusive or, subtract (R103). -/
theorem mix_bijective {a b d : Fin 16} (hab : a ≠ b) (had : a ≠ d) {n : Nat} (hn : n < 32) :
    Function.Bijective (mix a b d n) := by
  have hsum := set_perm_bijective a (fun x => Equiv.addRight x[b]) fun x v => by
    simp [Fin.val_inj, hab]
  have hrotate := set_perm_bijective d (fun x => (xorPerm x[a]).trans (rotatePerm 32 n)) fun x v => by
    simp [Fin.val_inj, had.symm]
  have hmix : mix a b d n =
      (fun x => x.set d ((xorPerm x[a]).trans (rotatePerm 32 n) x[d])) ∘
        fun x => x.set a (Equiv.addRight x[b] x[a]) :=
    funext fun x => congrArg (Vector.set _ d.val · d.isLt) (rotl_eq_rotateLeft hn _)
  rw [hmix]
  exact hrotate.comp hsum

theorem quarterRound_bijective {a b c d : Fin 16} (h : [a, b, c, d].Nodup) :
    Function.Bijective (quarterRound a b c d) := by
  obtain ⟨⟨hab, -, had⟩, ⟨hbc, -⟩, hcd⟩ := different_of_nodup h
  have hfirst {n : Nat} (hn : n < 32) := mix_bijective hab had hn
  have hsecond {n : Nat} (hn : n < 32) := mix_bijective hcd hbc.symm hn
  exact (hsecond (by decide)).comp ((hfirst (by decide)).comp ((hsecond (by decide)).comp (hfirst (by decide))))

/-- An iteration is undone: each line of R9's table names four different words. -/
theorem iteration_bijective : Function.Bijective iteration := by
  have hcolumns :=
    (quarterRound_bijective (show [3, 7, 11, 15].Nodup by decide)).comp <|
    (quarterRound_bijective (show [2, 6, 10, 14].Nodup by decide)).comp <|
    (quarterRound_bijective (show [1, 5, 9, 13].Nodup by decide)).comp <|
    quarterRound_bijective (show [0, 4, 8, 12].Nodup by decide)
  have hdiagonals :=
    (quarterRound_bijective (show [3, 4, 9, 14].Nodup by decide)).comp <|
    (quarterRound_bijective (show [2, 7, 8, 13].Nodup by decide)).comp <|
    (quarterRound_bijective (show [1, 6, 11, 12].Nodup by decide)).comp <|
    quarterRound_bijective (show [0, 5, 10, 15].Nodup by decide)
  rw [funext iteration_eq]
  exact hdiagonals.comp hcolumns

/-! ### The fixed point -/

theorem mix_zero (a b d : Fin 16) (n : Nat) : mix a b d n (Vector.replicate 16 0) = Vector.replicate 16 0 := by
  ext j hj
  simp [mix, rotl]

/-- "Four zero words stay zero" (R100). -/
theorem quarterRound_zero (a b c d : Fin 16) :
    quarterRound a b c d (Vector.replicate 16 0) = Vector.replicate 16 0 := by
  simp only [quarterRound, mix_zero]

theorem permute20_zero : permute20 (Vector.replicate 16 0) = Vector.replicate 16 0 := by
  have hiteration : iteration (Vector.replicate 16 0) = Vector.replicate 16 0 := by
    simp only [iteration_eq, quarterRound_zero]
  rw [permute20_eq, Function.iterate_fixed hiteration]

/-- Settles O24: the permutation iterates a bijection that keeps the zero words. -/
theorem permutationIsBijective : Obligations.PermutationIsBijective := by
  refine ⟨?_, permute20_zero⟩
  rw [funext permute20_eq]
  exact iteration_bijective.iterate 10

/-! ### The result of PERM -/

theorem exec_perm_accepted {s : State} (hlen : s.DIN.length = 64) :
    exec .perm s = answer (bytesOf (permute20 (wordsOf 16 s.DIN))) s := by
  show execPerm s = _
  rw [execPerm, withPayload_pass _ rfl hlen]

theorem wordsOf_zeros : wordsOf 16 (zeros 64) = Vector.replicate 16 0 := by decide

theorem bytesOf_zero : bytesOf (Vector.replicate 16 0) = zeros 64 := rfl

/-- Settles O25: the payload is accepted, permuted and serialized; zero words are a fixed point; another length is
refused. -/
theorem permResult : Obligations.PermResult := by
  intro s
  refine ⟨fun hlen => ?_, fun hzeros => ?_, wrongPayloadLengthIsRefused .perm s⟩
  · rw [exec_perm_accepted hlen, answer_eq]
    rfl
  · have hlen : s.DIN.length = 64 := congrArg List.length hzeros
    rw [exec_perm_accepted hlen, hzeros, wordsOf_zeros, permute20_zero, bytesOf_zero, answer_eq]
    rfl

end Sys2Proof.Machine
end

section
/-! SUPPORT. What enters the derived key of a cipher context: the key and the first 16 bytes of the nonce (41_subkey.md
rule R123). -/

namespace Sys2Proof.Machine

/-- A command that is answered with status `Ok` has succeeded with its effect: no error has that code. -/
theorem exec_eq_next_ok {i : Instr} {s t : State} {dout : List Byte} (h : exec i s = .next t)
    (hok : t.answers = s.answers ++ [okResponse dout]) : ∃ u, t = u.respond .ok dout ∧ Effect i s dout u := by
  rcases exec_cases i s with ⟨e, he, hraise⟩ | ⟨hfault, -⟩ | ⟨dout', u, hanswer, -, -, heffect⟩
  · rw [hraise, raise_eq, Host.Outcome.next.injEq] at h
    have hcode : e.code = 0x00 := by
      simpa [← h] using congrArg (List.map Response.st) hok
    exact absurd hcode he.code_ne
  · simp [hfault] at h
  · rw [hanswer, answer_eq, Host.Outcome.next.injEq] at h
    obtain ⟨-, hanswers, -⟩ := heffect.frame
    obtain rfl : dout' = dout := by
      simpa [← h, hanswers, Status.code] using hok
    exact ⟨u, h.symm, heffect⟩

theorem slice_append_left {b rest : List Byte} {n : Nat} (h : b.length = n) : slice (b ++ rest) 0 n = b :=
  List.take_left' h

theorem slice_append_right {a : List Byte} {i : Nat} (h : a.length = i) (b : List Byte) (n : Nat) :
    slice (a ++ b) i n = slice b 0 n := by
  rw [slice, List.drop_left' h, slice, List.drop_zero]

/-- A successful `KS.INIT` leaves the constants, the subkey of the key and of the first 16 nonce bytes, and a last quadrant
(R134, R136). -/
theorem exec_ksInit_ok_S {s t : State} {klen nlen : Byte} {key pre rest : List Byte} (hkey : key.length = 32)
    (hpre : pre.length = 16) (hDIN : s.DIN = key ++ pre ++ rest) (h : exec (.ksInit klen nlen) s = .next t)
    (hok : t.answers = s.answers ++ [okResponse []]) :
    ∃ last, t.S = layout config.sigma (wordsOf 8 (subkey key pre)) last := by
  obtain ⟨u, rfl, -, hnlen, -, rfl⟩ := exec_eq_next_ok h hok
  have hlong : 16 ≤ nlen.toNat := by
    simp only [config_nonceLengths, List.mem_cons, List.not_mem_nil, or_false] at hnlen
    omega
  have hkeyBytes : s.keyBytes = key := by
    rw [State.keyBytes, hDIN, List.append_assoc, slice_append_left hkey]
  have hfirst : slice (s.afterKey nlen.toNat) 0 16 = pre := by
    rw [State.afterKey, slice_slice s.DIN hlong, hDIN, List.append_assoc, slice_append_right hkey,
      slice_append_left hpre]
  refine ⟨wordsOf 4 (tail (s.afterKey nlen.toNat) nlen.toNat), ?_⟩
  rw [respond_S, initStream_S, hkeyBytes, hfirst]

/-- The last quadrant is in no word before word 12 (R21). -/
theorem layout_before_last (consts : Vector W32 4) (key : Vector W32 8) (last last' : Vector W32 4) {j : Nat}
    (h : j < 12) : (layout consts key last)[j] = (layout consts key last')[j] := by
  rcases Nat.lt_or_ge j 4 with h4 | h4
  · rw [layout_constants consts key last h4, layout_constants consts key last' h4]
  · obtain ⟨i, rfl⟩ := Nat.exists_eq_add_of_le h4
    have hi : i < 8 := by omega
    rw [layout_key consts key last hi, layout_key consts key last' hi]

/-- Settles O28: both contexts hold the same constants and the same subkey, and differ in the last quadrant only. -/
theorem subkeyDependsOnTheNoncePrefix : Obligations.SubkeyDependsOnTheNoncePrefix := by
  intro s t s' t' n m key pre u v hkey hpre hs ht hexec hexec' hok hok' j
  obtain ⟨last, hS⟩ := exec_ksInit_ok_S hkey hpre hs hexec hok
  obtain ⟨last', hS'⟩ := exec_ksInit_ok_S hkey hpre ht hexec' hok'
  simp only [hS, hS']
  exact layout_before_last _ _ last last' j.isLt

end Sys2Proof.Machine
end

section
/-! SUPPORT. Unit K (42_keystream.md section 2): the counter under `KS.SETCTR` and the increment, and the results of
`KS.NEXT` and `KS.CRYPT` with and without a context. -/

namespace Sys2Proof.Machine

/-! ### The counter -/

/-- Settles O31: the increment overwrites the two counter words with these values, which add 1 to the counter. -/
theorem counterIncrement : Obligations.CounterIncrement := by
  intro x y
  refine ⟨?_, ?_, sameButCounter_incrementCounter x, counterOf_incrementCounter x⟩
  · simp only [y, incrementCounter_eq, getElem_setCounterWords, reduceIte, show (12 : Nat) ≠ 13 by decide]
  · simp only [y, incrementCounter_eq, getElem_setCounterWords, reduceIte]

/-! ### The commands that use a cipher context -/

/-- The commands of unit K other than `KS.INIT`, which need a cipher context (R196). -/
def NeedsCipher (i : Instr) : Prop :=
  i = .ksSetctr ∨ i = .ksNext ∨ ∃ n, i = .ksCrypt n

/-- A command that needs a cipher context asks for one right after its payload check. -/
theorem NeedsCipher.exec_eq {i : Instr} (hi : NeedsCipher i) (s : State) :
    ∃ rest, exec i s = withPayload i s (require s.cipherReady .noContext s rest) := by
  obtain rfl | rfl | ⟨n, rfl⟩ := hi <;> exact ⟨_, rfl⟩

/-- Without a context the command is refused, whatever it would have done (R196). -/
theorem NeedsCipher.exec_no_context {i : Instr} (hi : NeedsCipher i) {s : State} (hk : s.KSV = false)
    (hlen : s.DIN.length = payloadLength i) : exec i s = raise .noContext s := by
  have hwf : i.wellFormed = true := by
    obtain rfl | rfl | ⟨n, rfl⟩ := hi <;> rfl
  obtain ⟨rest, hexec⟩ := hi.exec_eq s
  rw [hexec, withPayload_pass _ hwf hlen, State.cipherReady, hk, require_false]

theorem needsCipher_ksSetctr : NeedsCipher .ksSetctr := .inl rfl

theorem needsCipher_ksNext : NeedsCipher .ksNext := .inr (.inl rfl)

theorem needsCipher_ksCrypt (n : Byte) : NeedsCipher (.ksCrypt n) := .inr (.inr ⟨n, rfl⟩)

/-- Settles O30: `setCounter` overwrites the counter words with the two payload words, which are the halves of the
payload as a number; the two refusals leave the state but for the port. -/
theorem ksSetctrResult : Obligations.KsSetctrResult := by
  intro s
  refine ⟨fun hk hlen => ⟨(s.setCounter s.DIN).S, ?_, ?_, ?_, ?_, ?_⟩, fun hk hlen => ?_,
    wrongPayloadLengthIsRefused .ksSetctr s⟩
  · rw [exec_ksSetctr_ready hk hlen, answer_eq]
    rfl
  · simp only [setCounter_S, getElem_setCounterWords, reduceIte, show (12 : Nat) ≠ 13 by decide]
  · simp only [setCounter_S, getElem_setCounterWords, reduceIte]
  · exact sameButCounter_setCounterWords _ _ s.S
  · calc counterOf (s.setCounter s.DIN).S = counterOf (s.setCounter (st64 (le64 s.DIN))).S := by rw [st64_le64 hlen]
      _ = le64 s.DIN := by rw [setCounter_st64_S, counterOf_withCounter]
  · rw [needsCipher_ksSetctr.exec_no_context hk hlen, raise_eq]
    rfl

/-- Settles O33: `NextByte` by the state of the generator, and the refusal without a context. -/
theorem ksNextResult : Obligations.KsNextResult := by
  intro s hDIN
  refine ⟨fun hserving hk => ?_, fun hfresh hk => ?_, fun hk => ?_⟩
  · rw [exec_ksNext_ready hk hDIN, nextByte_serving hserving]
    rfl
  · rw [exec_ksNext_ready hk hDIN, nextByte_fresh hfresh]
    rfl
  · rw [needsCipher_ksNext.exec_no_context hk (congrArg List.length hDIN), raise_eq]
    rfl

/-- `KS.CRYPT` with a context, from the stream it takes: the state after the bytes, with the response given. -/
theorem exec_ksCrypt_of_xorStream {n : Byte} {s u : State} {out : List Byte} (hk : s.KSV = true)
    (hlen : s.DIN.length = n.toNat) (hx : xorStream s.DIN s = some (out, u)) :
    exec (.ksCrypt n) s = .next (u.respond .ok out) := by
  rw [exec_ksCrypt_ready hk hlen, hx]
  rfl

/-- Settles O35: the output is the payload XORed with the bytes taken, taking them leaves the responses, and no bytes
leave the whole state. -/
theorem ksCryptResult : Obligations.KsCryptResult := by
  intro n s hlen
  refine ⟨fun hk hcur => ?_, fun hk hn => ?_, fun hk => ?_⟩
  · obtain ⟨out, u, hx⟩ := exists_xorStream s.DIN hcur
    obtain ⟨ks, htake, hks, rfl⟩ := takeBytes_of_xorStream hx
    obtain ⟨-, -, -, -, hanswers⟩ := streamFrame_xorStream hx
    refine ⟨ks, u, hlen ▸ htake, hks.trans hlen, ?_⟩
    rw [exec_ksCrypt_of_xorStream hk hlen hx, ← hanswers]
    rfl
  · have hDIN : s.DIN = [] := List.eq_nil_of_length_eq_zero (by simpa [hn] using hlen)
    exact exec_ksCrypt_of_xorStream hk hlen (by rw [hDIN, xorStream_nil])
  · rw [(needsCipher_ksCrypt n).exec_no_context hk hlen, raise_eq]
    rfl

/-! ### Refills and the cursor -/

/-- The cursor after `n` bytes from the cursor `c` (R139). -/
def cursorAfter (n c : Nat) : Nat :=
  if n = 0 then c else (c + n - 1) % 64 + 1

/-- A byte of the block being served moves the cursor and costs no refill. -/
theorem refillCount_succ_serving {c : Nat} (hc : c < 64) (n : Nat) : refillCount (n + 1) c = refillCount n (c + 1) := by
  unfold refillCount
  split <;> split <;> omega

/-- The first byte of a block costs one refill and leaves the cursor at 1. -/
theorem refillCount_succ_fresh (n : Nat) : refillCount (n + 1) 64 = 1 + refillCount n 1 := by
  unfold refillCount
  split <;> split <;> omega

theorem cursorAfter_succ_serving {c : Nat} (hc : c < 64) (n : Nat) : cursorAfter (n + 1) c = cursorAfter n (c + 1) := by
  unfold cursorAfter
  split <;> split <;> omega

theorem cursorAfter_succ_fresh (n : Nat) : cursorAfter (n + 1) 64 = cursorAfter n 1 := by
  unfold cursorAfter
  split <;> split <;> omega

theorem toNat_CUR_of_fresh {s : State} (h : s.CUR = 64) : s.CUR.toNat = 64 :=
  congrArg BitVec.toNat h

/-- A stream increments the counter once for each refill and leaves the cursor after its last byte (R139). -/
theorem xorStream_counter_and_cursor {data out : List Byte} {s t : State} (h : xorStream data s = some (out, t)) :
    counterOf t.S = counterOf s.S + BitVec.ofNat 64 (refillCount data.length s.CUR.toNat) ∧
      t.CUR.toNat = cursorAfter data.length s.CUR.toNat := by
  induction data generalizing s out with
  | nil =>
    obtain ⟨rfl, rfl⟩ := Prod.mk.inj (Option.some.inj h)
    simp [refillCount, cursorAfter]
  | cons d data ih =>
    obtain ⟨b, s1, rest, hb, hrest, -⟩ := xorStream_cons_eq_some h
    obtain ⟨hcounter, hcursor⟩ := ih hrest
    rw [hcounter, hcursor, List.length_cons]
    rcases nextByte_eq_some hb with ⟨hserving, rfl⟩ | ⟨hfresh, rfl⟩
    · rw [toNat_CUR_advance hserving, refillCount_succ_serving hserving, cursorAfter_succ_serving hserving]
      exact ⟨rfl, rfl⟩
    · have hcur : s.refill.advance.CUR.toNat = 1 := rfl
      rw [toNat_CUR_of_fresh hfresh, hcur, refillCount_succ_fresh, cursorAfter_succ_fresh, BitVec.ofNat_add,
        ← BitVec.add_assoc, advance_S, refill_S, counterOf_incrementCounter]
      exact ⟨rfl, rfl⟩

/-- Settles O36: the response leaves the counter and the cursor as the stream left them. -/
theorem ksCryptRefills : Obligations.KsCryptRefills := by
  intro n s hlen hk hcur hn
  obtain ⟨out, u, hx⟩ := exists_xorStream s.DIN hcur
  obtain ⟨hcounter, hcursor⟩ := xorStream_counter_and_cursor hx
  have hpos : n.toNat ≠ 0 := fun h => hn (BitVec.eq_of_toNat_eq h)
  rw [hlen] at hcounter hcursor
  rw [cursorAfter, if_neg hpos] at hcursor
  exact ⟨u.respond .ok out, exec_ksCrypt_of_xorStream hk hlen hx, hcounter, hcursor⟩

end Sys2Proof.Machine
end

section
/-! SUPPORT. How the commands of unit K combine (42_keystream.md section 3, rule R140): `KS.CRYPT` of a split payload,
of one zero byte, and of its own output. -/

namespace Sys2Proof.Machine

theorem SameCipher.symm {s t : State} (h : SameCipher s t) : SameCipher t s := by
  obtain ⟨hS, hBUF, hCUR, hKSV⟩ := h
  exact ⟨hS.symm, hBUF.symm, hCUR.symm, hKSV.symm⟩

/-- What `KS.CRYPT` of some data does depends on the unit K items alone: a stream from `s` is the result in any `r` with
the same ones. -/
theorem exec_ksCrypt_sameCipher {n : Byte} {s r u : State} {data out : List Byte} (h : SameCipher s r)
    (hk : s.KSV = true) (hlen : data.length = n.toNat) (hx : xorStream data s = some (out, u)) :
    ∃ t, exec (.ksCrypt n) { r with DIN := data } = .next t ∧ t.answers = r.answers ++ [okResponse out] ∧
      SameCipher u t ∧ SameHash r t := by
  obtain ⟨-, -, -, hKSV⟩ := id h
  obtain ⟨v, hxr, huv⟩ := xorStream_sameCipher (t := { r with DIN := data }) h hx
  obtain ⟨hhash, -, -, -, hanswers⟩ := streamFrame_xorStream hxr
  exact ⟨v.respond .ok out, exec_ksCrypt_of_xorStream (hKSV ▸ hk) hlen hxr, congrArg (· ++ [okResponse out]) hanswers,
    huv, hhash⟩

/-- Settles O38: the stream for the concatenation is the stream for the first part and then that for the second, and
each command gives its stream from a state with the same unit K items. -/
theorem splittingACryptChangesNothing : Obligations.SplittingACryptChangesNothing := by
  intro a b s x y hx hy hab hk hcur
  obtain ⟨out, w, hxy⟩ := exists_xorStream (x ++ y) hcur
  obtain ⟨out1, s1, out2, hx1, hx2, rfl⟩ := xorStream_append_eq_some hxy
  have hsame : SameCipher s s := ⟨rfl, rfl, rfl, rfl⟩
  have hsum : (x ++ y).length = (a + b).toNat := by
    rw [List.length_append, hx, hy, BitVec.toNat_add_of_lt hab]
  obtain ⟨-, hk1, -⟩ := streamFrame_xorStream hx1
  obtain ⟨t, hexec1, hans1, hcipher1, hhash1⟩ := exec_ksCrypt_sameCipher hsame hk hx hx1
  obtain ⟨u, hexec2, hans2, hcipher2, hhash2⟩ := exec_ksCrypt_sameCipher hcipher1 (hk1.trans hk) hy hx2
  obtain ⟨v, hexec, hans, hcipher, hhash⟩ := exec_ksCrypt_sameCipher hsame hk hsum hxy
  exact ⟨t, u, v, out1, out2, hexec1, hans1, hexec2, hans2, hexec, hans, hcipher2.symm.trans hcipher,
    (hhash1.trans hhash2).symm.trans hhash⟩

/-- A keystream byte does not depend on the payload, and leaves it. -/
theorem nextByte_withDIN (din : List Byte) (s : State) :
    ({ s with DIN := din } : State).nextByte = s.nextByte.map fun p => (p.1, { p.2 with DIN := din }) := by
  rcases nextByte_cases s with ⟨-, hserving, hb⟩ | ⟨hfresh, hb⟩ | ⟨hbeyond, hb⟩ <;> rw [hb]
  · exact nextByte_serving (s := { s with DIN := din }) hserving
  · exact nextByte_fresh (s := { s with DIN := din }) hfresh
  · exact nextByte_none (s := { s with DIN := din }) hbeyond

/-- Settles O39: without a context both are refused; with one, the byte XORed with zero is the byte, and the response
empties the payload in which the two states differ. -/
theorem nextIsCryptOfAZeroByte : Obligations.NextIsCryptOfAZeroByte := by
  intro s
  rcases Bool.eq_false_or_eq_true s.KSV with hk | hk
  · rw [exec_ksNext_ready (s := { s with DIN := [] }) hk rfl, exec_ksCrypt_ready (s := { s with DIN := [0] }) hk rfl,
      xorStream_cons, nextByte_withDIN [] s, nextByte_withDIN [0] s]
    cases s.nextByte with
    | none => rfl
    | some p =>
      have hxor : 0 ^^^ p.1 = p.1 := BitVec.zero_xor
      show answer [p.1] { p.2 with DIN := [] } = answer [0 ^^^ p.1] { p.2 with DIN := [0] }
      rw [hxor]
      rfl
  · rw [needsCipher_ksNext.exec_no_context (s := { s with DIN := [] }) hk rfl,
      (needsCipher_ksCrypt 1).exec_no_context (s := { s with DIN := [0] }) hk rfl]
    rfl

/-- The keystream XORed twice into the data gives the data back (R140). -/
theorem xorStream_output {data out : List Byte} {s t : State} (h : xorStream data s = some (out, t)) :
    xorStream out s = some (data, t) := by
  induction data generalizing s out with
  | nil =>
    obtain ⟨rfl, rfl⟩ := Prod.mk.inj (Option.some.inj h)
    rfl
  | cons d data ih =>
    obtain ⟨k, s1, rest, hk, hrest, rfl⟩ := xorStream_cons_eq_some h
    simp [xorStream_cons, hk, ih hrest]

/-- Settles O40: the stream of the output is the plaintext, and both commands give their streams from states with the
same unit K items. -/
theorem decryptUndoesEncrypt : Obligations.DecryptUndoesEncrypt := by
  intro n s r p hsr hk hcur hlen
  obtain ⟨c, w, hx⟩ := exists_xorStream p hcur
  have hclen : c.length = n.toNat := (length_xorStream hx).trans hlen
  obtain ⟨t, hexec, hans, hwt, -⟩ := exec_ksCrypt_sameCipher (r := s) ⟨rfl, rfl, rfl, rfl⟩ hk hlen hx
  obtain ⟨u, hexec', hans', hwu, -⟩ := exec_ksCrypt_sameCipher hsr hk hclen (xorStream_output hx)
  exact ⟨t, u, c, hexec, hans, hclen, hexec', hans', hwt.symm.trans hwu⟩

end Sys2Proof.Machine
end

section
/-! SUPPORT. The keystream as a function of the context and the position (42_keystream.md section 3, rules R141 and
R142; 70_reset_and_hazards.md rule R224). -/

namespace Sys2Proof.Machine

/-! ### The byte at a position -/

/-- The byte at position `p` counted from the start of the buffer: the buffer's, or one of a block still to be made, the
first of them at the counter of `s` (R141). There is one at every position. -/
def byteAtPosition (s : State) (p : Nat) : Option Byte :=
  if p < 64 then s.BUF[p]?
  else (keystreamBlock (withCounter (counterOf s.S + BitVec.ofNat 64 (p / 64 - 1)) s.S))[p % 64]?

theorem byteAtPosition_of_lt {s : State} {p : Nat} (h : p < 64) : byteAtPosition s p = s.BUF[p]? :=
  if_pos h

/-- Beyond the buffer: byte `j mod 64` of the block made at counter `CTR + j / 64`. -/
theorem byteAtPosition_add (s : State) (j : Nat) :
    byteAtPosition s (64 + j) =
      (keystreamBlock (withCounter (counterOf s.S + BitVec.ofNat 64 (j / 64)) s.S))[j % 64]? := by
  simp only [byteAtPosition, if_neg (show ¬ 64 + j < 64 by omega), show (64 + j) / 64 - 1 = j / 64 by omega,
    show (64 + j) % 64 = j % 64 by omega]

/-- A refill makes position 64 position 0. -/
theorem byteAtPosition_refill (s : State) (j : Nat) : byteAtPosition s.refill j = byteAtPosition s (64 + j) := by
  rw [byteAtPosition_add]
  rcases Nat.lt_or_ge j 64 with hj | hj
  · rw [byteAtPosition_of_lt hj, refill_BUF, Nat.div_eq_of_lt hj, Nat.mod_eq_of_lt hj, BitVec.add_zero,
      withCounter_counterOf]
  · obtain ⟨i, rfl⟩ := Nat.exists_eq_add_of_le hj
    rw [byteAtPosition_add, refill_S, counterOf_incrementCounter,
      withCounter_congr (sameButCounter_incrementCounter s.S), show (64 + i) / 64 = 1 + i / 64 by omega,
      show (64 + i) % 64 = i % 64 by omega, BitVec.ofNat_add, ← BitVec.add_assoc]
    rfl

/-- `NextByte` gives the byte at the cursor, and the positions after it are those of the state it leaves. -/
theorem nextByte_position {s t : State} {b : Byte} (h : s.nextByte = some (b, t)) :
    byteAtPosition s s.CUR.toNat = some b ∧
      ∀ j, byteAtPosition s (s.CUR.toNat + (j + 1)) = byteAtPosition t (t.CUR.toNat + j) := by
  rcases nextByte_cases s with ⟨-, hserving, hb⟩ | ⟨hfresh, hb⟩ | ⟨-, hb⟩ <;> rw [hb] at h
  · obtain ⟨rfl, rfl⟩ := Prod.mk.inj (Option.some.inj h)
    refine ⟨?_, fun j => ?_⟩
    · rw [byteAtPosition_of_lt hserving, Vector.getElem?_eq_getElem hserving]
    · rw [toNat_CUR_advance hserving, Nat.add_right_comm]
      rfl
  · obtain ⟨rfl, rfl⟩ := Prod.mk.inj (Option.some.inj h)
    have hrefill (j : Nat) : byteAtPosition s (s.CUR.toNat + j) = byteAtPosition s.refill j := by
      rw [toNat_CUR_of_fresh hfresh, byteAtPosition_refill]
    refine ⟨(hrefill 0).trans ?_, fun j => (hrefill (j + 1)).trans ?_⟩
    · rw [byteAtPosition_of_lt (by decide), refill_BUF]
      rfl
    · rw [Nat.add_comm j 1]
      rfl
  · simp at h

/-- The bytes taken are those at the cursor and at the positions after it. -/
theorem getElem?_takeBytes {n : Nat} {s t : State} {ks : List Byte} (h : takeBytes n s = some (ks, t)) {j : Nat}
    (hj : j < n) : ks[j]? = byteAtPosition s (s.CUR.toNat + j) := by
  induction n generalizing s ks j with
  | zero => omega
  | succ n ih =>
    obtain ⟨b, s1, rest, hb, hrest, rfl⟩ := takeBytes_succ_eq_some h
    obtain ⟨hfirst, hlater⟩ := nextByte_position hb
    cases j with
    | zero => exact hfirst.symm
    | succ j => rw [List.getElem?_cons_succ, hlater, ih hrest (by omega)]

/-- From a cursor of at most 64 any number of bytes can be taken. -/
theorem exists_takeBytes (n : Nat) {s : State} (hcur : s.CUR.toNat ≤ 64) :
    ∃ ks u, takeBytes n s = some (ks, u) ∧ ks.length = n := by
  obtain ⟨out, u, hx⟩ := exists_xorStream (zeros n) hcur
  obtain ⟨ks, htake, hlen, -⟩ := takeBytes_of_xorStream hx
  rw [zeros, List.length_replicate] at htake hlen
  exact ⟨ks, u, htake, hlen⟩

/-- A list is what is taken when it holds the bytes at the positions. -/
theorem takeBytes_eq_of_positions {n : Nat} {s : State} {bs : List Byte} (hcur : s.CUR.toNat ≤ 64)
    (hlen : bs.length = n) (hbs : ∀ j < n, bs[j]? = byteAtPosition s (s.CUR.toNat + j)) :
    ∃ u, takeBytes n s = some (bs, u) := by
  obtain ⟨ks, u, htake, hks⟩ := exists_takeBytes n hcur
  have heq : ks = bs := List.ext_getElem? fun j => by
    rcases Nat.lt_or_ge j n with hj | hj
    · rw [getElem?_takeBytes htake hj, hbs j hj]
    · rw [List.getElem?_eq_none (hks.trans_le hj), List.getElem?_eq_none (hlen.trans_le hj)]
  exact ⟨u, heq ▸ htake⟩

/-! ### The statements about positions -/

/-- Settles O41: a FRESH generator's cursor is 64, so byte `j` is at position `64 + j`. -/
theorem keystreamByPosition : Obligations.KeystreamByPosition := by
  intro s n hfresh
  have hcur := toNat_CUR_of_fresh hfresh
  obtain ⟨ks, u, htake, hlen⟩ := exists_takeBytes n hcur.le
  refine ⟨ks, u, htake, hlen, fun j hj => ?_⟩
  rw [getElem?_takeBytes htake hj, hcur, byteAtPosition_add]

/-- `KS.SETCTR` of a counter with a context: the counter words are overwritten, and the buffer and the cursor are as
before (R137). -/
theorem exec_ksSetctr_st64 {s : State} (c : W64) (hk : s.KSV = true) :
    ∃ t, exec .ksSetctr { s with DIN := st64 c } = .next t ∧ t.S = withCounter c s.S ∧ t.BUF = s.BUF ∧
      t.CUR = s.CUR :=
  ⟨_, exec_ksSetctr_ready (s := { s with DIN := st64 c }) hk rfl,
    setCounter_st64_S c { s with DIN := st64 c }, rfl, rfl⟩

/-- Where the cipher state is `x` with the counter `c`, the bytes beyond the buffer are the blocks of `x` from counter
`c` on. -/
theorem byteAtPosition_add_withCounter {t : State} {c : W64} {x : Vector W32 16} (h : t.S = withCounter c x) (j : Nat) :
    byteAtPosition t (64 + j) = (keystreamBlock (withCounter (c + BitVec.ofNat 64 (j / 64)) x))[j % 64]? := by
  rw [byteAtPosition_add, h, counterOf_withCounter, withCounter_withCounter]

/-- Settles O42: byte `j` after the seek and byte `64 N + j` without it are byte `j mod 64` of the block at counter
`N + j / 64`. -/
theorem counterSeek : Obligations.CounterSeek := by
  intro s N n hk hfresh hzero
  have hcur := toNat_CUR_of_fresh hfresh
  obtain ⟨t, hexec, hS, -, hCUR⟩ := exec_ksSetctr_st64 N hk
  obtain ⟨ks, u, htake, hlen⟩ := exists_takeBytes (64 * N.toNat + n) hcur.le
  have hcounter (k : Nat) : 0 + BitVec.ofNat 64 (N.toNat + k) = N + BitVec.ofNat 64 k := by
    rw [BitVec.ofNat_add, BitVec.ofNat_toNat, BitVec.setWidth_eq]
    exact BitVec.zero_add _
  have hbytes (j : Nat) (hj : j < n) : (ks.drop (64 * N.toNat))[j]? = byteAtPosition t (t.CUR.toNat + j) := by
    rw [List.getElem?_drop, getElem?_takeBytes htake (by omega), hCUR, hcur, byteAtPosition_add, hzero,
      byteAtPosition_add_withCounter hS, show (64 * N.toNat + j) / 64 = N.toNat + j / 64 by omega,
      show (64 * N.toNat + j) % 64 = j % 64 by omega, hcounter]
  obtain ⟨v, hdrop⟩ := takeBytes_eq_of_positions (s := t) (by rw [hCUR, hcur])
    (by rw [List.length_drop, hlen]; omega) hbytes
  exact ⟨t, ks, u, v, hexec, htake, hdrop⟩

/-- Settles O43: the positions in the buffer are left by the seek, and the 64 after them are the block at the new
counter. -/
theorem seekInMidBlockServesStaleBytes : Obligations.SeekInMidBlockServesStaleBytes := by
  intro s c n hk hserving hn
  obtain ⟨t, hexec, hS, hBUF, hCUR⟩ := exec_ksSetctr_st64 c hk
  have hrest : (s.BUF.toList.drop s.CUR.toNat).length = 64 - s.CUR.toNat := by simp
  have hbytes (j : Nat) (hj : j < 64 - s.CUR.toNat + n) :
      (s.BUF.toList.drop s.CUR.toNat ++ (keystreamBlock (withCounter c s.S)).toList.take n)[j]? =
        byteAtPosition t (t.CUR.toNat + j) := by
    rw [hCUR]
    rcases Nat.lt_or_ge j (64 - s.CUR.toNat) with hold | hnew
    · rw [List.getElem?_append_left (hold.trans_eq hrest.symm), List.getElem?_drop, Vector.getElem?_toList,
        byteAtPosition_of_lt (by omega), hBUF]
    · obtain ⟨i, rfl⟩ := Nat.exists_eq_add_of_le hnew
      have hi : i < 64 := by omega
      rw [List.getElem?_append_right (by omega), hrest, Nat.add_sub_cancel_left, List.getElem?_take_of_lt (by omega),
        Vector.getElem?_toList, show s.CUR.toNat + (64 - s.CUR.toNat + i) = 64 + i by omega,
        byteAtPosition_add_withCounter hS, Nat.div_eq_of_lt hi, Nat.mod_eq_of_lt hi, BitVec.add_zero]
  obtain ⟨u, htake⟩ := takeBytes_eq_of_positions (s := t) (hCUR ▸ hserving.le)
    (by rw [List.length_append, hrest]; simp [hn]) hbytes
  exact ⟨t, u, hexec, htake⟩

end Sys2Proof.Machine
end

section
/-! SUPPORT. Unit S (43_siphash.md rules R160 to R168): the half-round and its fixed point, the final word as eight
bytes, and the results of `SIP.BLOCK` and `SIP.FINAL`. -/

namespace Sys2Proof.Machine

/-! ### Rounds -/

/-- Settles O46: each statement writes one word, which the statements on the other three do not change. -/
theorem halfRoundStatements : Obligations.HalfRoundStatements := by
  intro v a b c d r1 r2 hab hac had hbc hbd hcd _ hr1 _ hr2
  simp only [halfRound, rotl_eq_rotateLeft hr1, rotl_eq_rotateLeft hr2, rotl_eq_rotateLeft (show 32 < 64 by decide),
    Fin.getElem_fin, Vector.getElem_set, Fin.val_inj, if_true]
  refine ⟨?_, ?_, ?_, ?_⟩
  all_goals simp [hab, hab.symm, hac, hac.symm, had, had.symm, hbc, hbc.symm, hbd, hbd.symm, hcd, hcd.symm]

theorem halfRound_zero (a b c d : Fin 4) (r1 r2 : Nat) :
    halfRound a b c d r1 r2 (Vector.replicate 4 0) = Vector.replicate 4 0 := by
  ext j hj
  simp [halfRound, rotl]

/-- Settles O47: a SipRound is defined as the two half-rounds, and each keeps the zero words. -/
theorem sipRoundIsTwoHalfRounds : Obligations.SipRoundIsTwoHalfRounds :=
  ⟨fun _ => rfl, by simp only [sipRound, halfRound_zero]⟩

/-- Absorbing a word takes two rounds (R163). -/
theorem sipAbsorb_eq (m : W64) (v : Vector W64 4) :
    sipAbsorb m v = xorInto 0 m (sipRound (sipRound (xorInto 3 m v))) := by
  rw [sipAbsorb]
  rfl

/-- Finalization takes four rounds (R165). -/
theorem sipFinish_eq (v : Vector W64 4) :
    sipFinish v = sipRound (sipRound (sipRound (sipRound (xorInto 2 0xff v)))) := by
  rw [sipFinish]
  rfl

/-! ### The final word -/

/-- The word of a concatenation has the second string's bytes after those of the first (R12). -/
theorem leWord_append {w : Nat} (a b : List Byte) :
    leWord w (a ++ b) = leWord w a ||| leWord w b <<< (8 * a.length) := by
  induction a with
  | nil => simp [leWord]
  | cons x a ih =>
    rw [List.cons_append, leWord, ih, leWord, BitVec.shiftLeft_or_distrib, ← BitVec.shiftLeft_add, ← BitVec.or_assoc,
      List.length_cons, Nat.mul_succ]

theorem leWord_zeros (w n : Nat) : leWord w (zeros n) = 0 := by
  induction n with
  | zero => rfl
  | succ n ih =>
    rw [zeros, List.replicate_succ, ← zeros, leWord, ih]
    simp

/-- Settles O48: seven bytes stand before the length byte, and the zero bytes among them add nothing. -/
theorem finalWordLayout : Obligations.FinalWordLayout := by
  intro rest len hlen
  have hseven : (rest ++ zeros (7 - rest.length)).length = 7 := by
    simp [zeros]
    omega
  rw [le64, leWord_append, hseven, leWord_append, leWord_zeros, finalWord]
  simp [leWord, BitVec.or_comm]

/-! ### The commands that use a hash in progress -/

/-- The commands of unit S other than `SIP.INIT`, which need a hash in progress (R196). -/
def NeedsHash (i : Instr) : Prop :=
  i = .sipBlock ∨ ∃ r, i = .sipFinal r

/-- A command that needs a hash in progress asks for one right after its payload check. -/
theorem NeedsHash.exec_eq {i : Instr} (hi : NeedsHash i) (s : State) :
    ∃ rest, exec i s = withPayload i s (require s.hashReady .noContext s rest) := by
  obtain rfl | ⟨r, rfl⟩ := hi <;> exact ⟨_, rfl⟩

/-- Without a hash in progress the command is refused, whatever it would have done (R196). -/
theorem NeedsHash.exec_no_hash {i : Instr} (hi : NeedsHash i) {s : State} (hh : s.SIPA = false)
    (hwf : i.wellFormed = true) (hlen : s.DIN.length = payloadLength i) : exec i s = raise .noContext s := by
  obtain ⟨rest, hexec⟩ := hi.exec_eq s
  rw [hexec, withPayload_pass _ hwf hlen, State.hashReady, hh, require_false]

/-- Settles O50: the chunk is absorbed as R163 says; the two refusals leave the state but for the port. -/
theorem sipBlockResult : Obligations.SipBlockResult := by
  intro s
  refine ⟨?_, fun hh hlen => ?_, wrongPayloadLengthIsRefused .sipBlock s⟩
  · intro hh hlen m x
    have hV : (s.absorbChunk s.DIN).V = x.set 0 (x[0] ^^^ m) := sipAbsorb_eq m s.V
    rw [exec_sipBlock_ready hh hlen, answer_eq, ← hV]
    rfl
  · rw [NeedsHash.exec_no_hash (.inl rfl) hh rfl hlen, raise_eq]
    rfl

/-- Settles O51: the final word is the padded tail with the length byte, absorbed and finished as R163 and R165 say; a
tail length above 7 makes the command ill-formed. -/
theorem sipFinalResult : Obligations.SipFinalResult := by
  intro r s hlen
  refine ⟨?_, fun hr hh => ?_, fun hr => ?_⟩
  · intro hr hh m x y z
    have hm : finalWord s.DIN (s.LEN + r) = m := finalWordLayout s.DIN (s.LEN + r) (hlen.trans_le hr)
    have hV : (s.endHash s.DIN r).V = z := by
      rw [endHash_V, hm, sipAbsorb_eq, sipFinish_eq]
      rfl
    rw [exec_sipFinal_ready (Nat.lt_succ_of_le hr) hh hlen, answer_eq, ← hV]
    rfl
  · have hwf := (wellFormed_sipFinal r).mpr (Nat.lt_succ_of_le hr)
    rw [NeedsHash.exec_no_hash (.inr ⟨r, rfl⟩) hh hwf hlen, raise_eq]
    rfl
  · have hwf : (Instr.sipFinal r).wellFormed = false :=
      Bool.eq_false_iff.mpr fun h => Nat.not_lt.mpr hr ((wellFormed_sipFinal r).mp h)
    obtain ⟨rest, hexec⟩ := exec_eq_withPayload (.sipFinal r) s
    rw [hexec, withPayload_illFormed rest hwf, raise_eq]
    rfl

end Sys2Proof.Machine
end

section
/-! SUPPORT. The independence of the units (43_siphash.md rule R171): a command that goes on in one state goes on in any
state with the same payload and the same items of its unit, and is answered with the same response. -/

namespace Sys2Proof.Machine

/-- Where the first outcome of a command, presented in `s`, is a next state, so is the second, presented in `r`: both
give the same response, and `R` relates what they leave. -/
def GoesOnAlike (R : State → State → Prop) (s r : State) (o o' : Outcome) : Prop :=
  ∀ s', o = .next s' → ∃ r' a, o' = .next r' ∧ s'.answers = s.answers ++ [a] ∧ r'.answers = r.answers ++ [a] ∧ R s' r'

/-- A relation between states that giving both the same response keeps. -/
def KeptByRespond (R : State → State → Prop) : Prop :=
  ∀ (s r : State) (st : Status) (dout : List Byte), R s r → R (s.respond st dout) (r.respond st dout)

theorem sameCipher_keptByRespond : KeptByRespond SameCipher := fun _ _ _ _ h => h

theorem sameHash_keptByRespond : KeptByRespond SameHash := fun _ _ _ _ h => h

section
variable {R : State → State → Prop} {s r : State} (hR : KeptByRespond R)
include hR

theorem answer_alike {u v : State} {dout dout' : List Byte} (hd : dout = dout') (hu : u.answers = s.answers)
    (hv : v.answers = r.answers) (h : R u v) : GoesOnAlike R s r (answer dout u) (answer dout' v) := by
  rintro _ ⟨⟩
  exact ⟨v.respond .ok dout, okResponse dout, by rw [hd]; rfl, congrArg (· ++ [okResponse dout]) hu,
    congrArg (· ++ [okResponse dout]) hv, hR u v .ok dout h⟩

theorem raise_alike (e : Status) (h : R s r) : GoesOnAlike R s r (raise e s) (raise e r) := by
  rintro _ ⟨⟩
  exact ⟨r.respond e [], _, rfl, rfl, rfl, hR s r e [] h⟩

/-- The same check in both states, and ends alike where it passes. -/
theorem require_alike {check check' : Bool} {e : Status} {rest rest' : Outcome} (h : R s r) (hc : check = check')
    (hrest : check = true → GoesOnAlike R s r rest rest') :
    GoesOnAlike R s r (require check e s rest) (require check' e r rest') := by
  subst hc
  cases check with
  | false => exact raise_alike hR e h
  | true => exact hrest rfl

theorem withPayload_alike {i : Instr} {rest rest' : Outcome} (h : R s r) (hDIN : s.DIN = r.DIN)
    (hrest : GoesOnAlike R s r rest rest') : GoesOnAlike R s r (withPayload i s rest) (withPayload i r rest') :=
  require_alike hR h (by rw [hDIN]) fun _ => hrest

/-- The commands of units P and H read the payload alone. -/
theorem exec_alike_of_no_unit {i : Instr} (hcipher : usesCipher i = false) (hhash : usesHash i = false) (h : R s r)
    (hDIN : s.DIN = r.DIN) : GoesOnAlike R s r (exec i s) (exec i r) := by
  have hkey : s.keyBytes = r.keyBytes := congrArg (slice · 0 32) hDIN
  have hafter : s.afterKey 16 = r.afterKey 16 := congrArg (slice · 32 16) hDIN
  cases i with
  | perm => exact withPayload_alike hR h hDIN (answer_alike hR (by rw [hDIN]) rfl rfl h)
  | subkey klen plen =>
    refine withPayload_alike hR h hDIN (require_alike hR h rfl fun _ => require_alike hR h rfl fun _ => ?_)
    exact answer_alike hR (by rw [hkey, hafter]) rfl rfl h
  | ksInit | ksSetctr | ksNext | ksCrypt => simp [usesCipher] at hcipher
  | sipInit | sipBlock | sipFinal => simp [usesHash] at hhash

end

/-- Byte sources that end alike: what one gives, so does the other, and the states they leave have the same unit K items
and the responses given before. -/
theorem answerStream_alike {s r : State} {o o' : Option (List Byte × State)}
    (h : ∀ out u, o = some (out, u) →
      ∃ v, o' = some (out, v) ∧ u.answers = s.answers ∧ v.answers = r.answers ∧ SameCipher u v) :
    GoesOnAlike SameCipher s r (answerStream o) (answerStream o') := by
  cases o with
  | none => exact nofun
  | some p =>
    obtain ⟨v, rfl, hu, hv, huv⟩ := h p.1 p.2 rfl
    exact answer_alike sameCipher_keptByRespond rfl hu hv huv

/-- What a command of units P, H and K does depends on the unit K items and the payload alone. -/
theorem exec_sameCipher {i : Instr} (hi : usesHash i = false) {s r : State} (h : SameCipher s r)
    (hDIN : s.DIN = r.DIN) : GoesOnAlike SameCipher s r (exec i s) (exec i r) := by
  have hR := sameCipher_keptByRespond
  obtain ⟨hS, hBUF, hCUR, hKSV⟩ := id h
  have hkey : s.keyBytes = r.keyBytes := congrArg (slice · 0 32) hDIN
  have hafter (n : Nat) : s.afterKey n = r.afterKey n := congrArg (slice · 32 n) hDIN
  cases i with
  | perm | subkey => exact exec_alike_of_no_unit hR rfl rfl h hDIN
  | ksInit klen nlen =>
    refine withPayload_alike hR h hDIN (require_alike hR h rfl fun _ => require_alike hR h rfl fun _ => ?_)
    rw [hkey, hafter]
    exact answer_alike hR rfl rfl rfl ⟨rfl, hBUF, rfl, rfl⟩
  | ksSetctr =>
    refine withPayload_alike hR h hDIN (require_alike hR h hKSV fun _ => answer_alike hR rfl rfl rfl ?_)
    exact ⟨by rw [setCounter_S, setCounter_S, hDIN, hS], hBUF, hCUR, hKSV⟩
  | ksNext =>
    refine withPayload_alike hR h hDIN (require_alike hR h hKSV fun _ => answerStream_alike fun out u hu => ?_)
    obtain ⟨⟨b, u⟩, hb, ⟨⟩⟩ := Option.map_eq_some_iff.mp hu
    obtain ⟨v, hb', huv⟩ := nextByte_sameCipher h hb
    obtain ⟨-, -, -, -, hsu⟩ := streamFrame_nextByte hb
    obtain ⟨-, -, -, -, hrv⟩ := streamFrame_nextByte hb'
    exact ⟨v, by rw [hb']; rfl, hsu, hrv, huv⟩
  | ksCrypt n =>
    refine withPayload_alike hR h hDIN (require_alike hR h hKSV fun _ => answerStream_alike fun out u hx => ?_)
    obtain ⟨v, hx', huv⟩ := xorStream_sameCipher h hx
    obtain ⟨-, -, -, -, hsu⟩ := streamFrame_xorStream hx
    obtain ⟨-, -, -, -, hrv⟩ := streamFrame_xorStream hx'
    exact ⟨v, hDIN ▸ hx', hsu, hrv, huv⟩
  | sipInit | sipBlock | sipFinal => simp [usesHash] at hi

/-- What a command of units P, H and S does depends on the unit S items and the payload alone. -/
theorem exec_sameHash {i : Instr} (hi : usesCipher i = false) {s r : State} (h : SameHash s r)
    (hDIN : s.DIN = r.DIN) : GoesOnAlike SameHash s r (exec i s) (exec i r) := by
  have hR := sameHash_keptByRespond
  obtain ⟨hV, hLEN, hSIPA⟩ := id h
  cases i with
  | perm | subkey => exact exec_alike_of_no_unit hR rfl rfl h hDIN
  | ksInit | ksSetctr | ksNext | ksCrypt => simp [usesCipher] at hi
  | sipInit =>
    exact withPayload_alike hR h hDIN (answer_alike hR rfl rfl rfl ⟨congrArg sipSeed hDIN, rfl, rfl⟩)
  | sipBlock =>
    refine withPayload_alike hR h hDIN (require_alike hR h hSIPA fun _ => answer_alike hR rfl rfl rfl ?_)
    exact ⟨by rw [absorbChunk_V, absorbChunk_V, hDIN, hV], congrArg (· + 8) hLEN, hSIPA⟩
  | sipFinal n =>
    have hend : (s.endHash s.DIN n).V = (r.endHash r.DIN n).V := by rw [endHash_V, endHash_V, hDIN, hV, hLEN]
    refine withPayload_alike hR h hDIN (require_alike hR h hSIPA fun _ => ?_)
    exact answer_alike hR (by rw [hend]) rfl rfl ⟨hend, hLEN, rfl⟩

/-- A command that goes on leaves the unit it does not use. -/
theorem exec_frame {i : Instr} {s t : State} (h : exec i s = .next t) :
    (usesCipher i = false → SameCipher s t) ∧ (usesHash i = false → SameHash s t) := by
  rcases exec_eq_next h with ⟨e, rfl⟩ | ⟨dout, u, rfl, -, he⟩
  · obtain ⟨hcipher, hhash⟩ := sameCore_respond e [] s
    exact ⟨fun _ => hcipher, fun _ => hhash⟩
  · obtain ⟨-, -, hframe⟩ := he.frame
    exact hframe

/-- Settles O55: the command goes on alike in states with the same unit K items, and leaves unit S in each. -/
theorem cipherCommandsIgnoreTheHash : Obligations.CipherCommandsIgnoreTheHash := by
  intro i s r s' hi hsr hDIN hexec
  obtain ⟨r', a, hexec', hs, hr, hcipher⟩ := exec_sameCipher hi hsr hDIN s' hexec
  obtain ⟨-, hleft⟩ := exec_frame hexec
  obtain ⟨-, hleft'⟩ := exec_frame hexec'
  exact ⟨r', a, hexec', hs, hr, hcipher, hleft hi, hleft' hi⟩

/-- Settles O56: the command goes on alike in states with the same unit S items, and leaves unit K in each. -/
theorem hashCommandsIgnoreTheCipher : Obligations.HashCommandsIgnoreTheCipher := by
  intro i s r s' hi hsr hDIN hexec
  obtain ⟨r', a, hexec', hs, hr, hhash⟩ := exec_sameHash hi hsr hDIN s' hexec
  obtain ⟨hleft, -⟩ := exec_frame hexec
  obtain ⟨hleft', -⟩ := exec_frame hexec'
  exact ⟨r', a, hexec', hs, hr, hhash, hleft hi, hleft' hi⟩

end Sys2Proof.Machine
end

section
/-! SUPPORT. The statuses (60_exceptions.md section 1): which of them a command can return, what is left of a command that
ends with one other than `Ok`, when the length errors and `NoContext` are raised, and that the counter wraps with none. -/

namespace Sys2Proof.Machine

/-! ### The status of a response -/

/-- The last response a state holds after a response is given is that response. -/
theorem eq_of_respond_answers {e : Status} {dout : List Byte} {u : State} {rs : List Response} {r : Response}
    (h : (u.respond e dout).answers = rs ++ [r]) : r = ⟨e.code, dout⟩ := by
  rw [respond_answers] at h
  obtain ⟨-, hr⟩ := List.append_inj' h rfl
  exact (List.singleton_inj.mp hr).symm

/-- Where the outcome goes on with one response more than `s` has, that response has one of these statuses. -/
def Returns (P : Status → Prop) (s : State) (o : Outcome) : Prop :=
  ∀ t r, o = .next t → t.answers = s.answers ++ [r] → ∃ e, P e ∧ r.st = e.code

section
variable {P : Status → Prop} {s : State}

theorem returns_respond {e : Status} (he : P e) (dout : List Byte) (u : State) :
    Returns P s (.next (u.respond e dout)) := by
  rintro t r ⟨⟩ hr
  exact ⟨e, he, congrArg Response.st (eq_of_respond_answers hr)⟩

theorem returns_answer (hok : P .ok) (dout : List Byte) (u : State) : Returns P s (answer dout u) :=
  returns_respond hok dout u

theorem returns_answerStream (hok : P .ok) (o : Option (List Byte × State)) : Returns P s (answerStream o) := by
  cases o with
  | none => exact fun _ _ hnext _ => nomatch hnext
  | some p => exact returns_answer hok p.1 p.2

theorem returns_require {check : Bool} {e : Status} {rest : Outcome} (he : P e) (h : Returns P s rest) :
    Returns P s (require check e s rest) := by
  rcases require_cases check e s rest with ⟨-, heq⟩ | ⟨-, heq⟩ <;> rw [heq]
  · exact h
  · exact returns_respond he [] s

theorem returns_withPayload {i : Instr} {rest : Outcome} (he : P .illegalCommand) (h : Returns P s rest) :
    Returns P s (withPayload i s rest) :=
  returns_require he h

end

/-- The commands with a key length field (R192). -/
def TakesKey (i : Instr) : Prop :=
  (∃ a b, i = .subkey a b) ∨ ∃ a b, i = .ksInit a b

/-- The table of R191: the commands that can return each status. -/
def MayReturn (i : Instr) : Status → Prop
  | .ok => True
  | .wrongKeyLength | .wrongNonceLength => TakesKey i
  | .counterOverflow => False
  | .illegalCommand => True
  | .noContext => NeedsCipher i ∨ NeedsHash i

/-- A command returns the statuses of its table only: those of its checks in turn, and `Ok`. -/
theorem exec_returns (i : Instr) (s : State) : Returns (MayReturn i) s (exec i s) := by
  cases i with
  | perm | sipInit => exact returns_withPayload trivial (returns_answer trivial _ _)
  | subkey a b =>
    have hkey : TakesKey (.subkey a b) := .inl ⟨a, b, rfl⟩
    exact returns_withPayload trivial (returns_require hkey (returns_require hkey (returns_answer trivial _ _)))
  | ksInit a b =>
    have hkey : TakesKey (.ksInit a b) := .inr ⟨a, b, rfl⟩
    exact returns_withPayload trivial (returns_require hkey (returns_require hkey (returns_answer trivial _ _)))
  | ksSetctr =>
    exact returns_withPayload trivial (returns_require (.inl needsCipher_ksSetctr) (returns_answer trivial _ _))
  | ksNext =>
    exact returns_withPayload trivial (returns_require (.inl needsCipher_ksNext) (returns_answerStream trivial _))
  | ksCrypt n =>
    exact returns_withPayload trivial (returns_require (.inl (needsCipher_ksCrypt n)) (returns_answerStream trivial _))
  | sipBlock =>
    exact returns_withPayload trivial (returns_require (.inr (.inl rfl)) (returns_answer trivial _ _))
  | sipFinal r =>
    exact returns_withPayload trivial (returns_require (.inr (.inr ⟨r, rfl⟩)) (returns_answer trivial _ _))

/-- Settles O16: a command returns the statuses of the table only, and the table is read status by status. -/
theorem statusesByCommand : Obligations.StatusesByCommand := by
  intro i s t r hexec hr
  obtain ⟨e, he, hst⟩ := exec_returns i s t r hexec hr
  cases e with
  | ok => exact .inl hst
  | illegalCommand => exact .inr (.inl hst)
  | wrongKeyLength => exact .inr (.inr (.inl ⟨.inl hst, he⟩))
  | wrongNonceLength => exact .inr (.inr (.inl ⟨.inr hst, he⟩))
  | counterOverflow => exact he.elim
  | noContext => exact .inr (.inr (.inr ⟨hst, by simpa only [MayReturn, NeedsCipher, NeedsHash, or_assoc] using he⟩))

/-! ### What an error leaves -/

/-- A command move that goes on has been answered with an error from the state that has it on the port, or with `Ok`. -/
theorem step_command_eq_next {s t : State} {cw : W32} {din : List Byte} {later : List HostMove}
    (hhost : s.host = .command cw din :: later) (hstep : step s = .next t) :
    (∃ e, t = (s.present din later).respond e []) ∨ ∃ (dout : List Byte) (u : State), t = u.respond .ok dout := by
  cases hd : decode cw with
  | error e =>
    rw [step_illegal hhost hd, raise_eq, Host.Outcome.next.injEq] at hstep
    exact .inl ⟨_, hstep.symm⟩
  | ok i =>
    rw [step_run hhost hd] at hstep
    rcases exec_eq_next hstep with herror | ⟨dout, u, ht, -⟩
    · exact .inl herror
    · exact .inr ⟨dout, u, ht⟩

/-- Settles O15: an error is answered from the state with the command on the port, and any other response is `Ok`. -/
theorem errorsChangeNothing : Obligations.ErrorsChangeNothing := by
  intro s t cw din later r hhost hstep hr hst
  rcases step_command_eq_next hhost hstep with ⟨e, rfl⟩ | ⟨dout, u, rfl⟩
  · obtain rfl := eq_of_respond_answers hr
    exact ⟨rfl, rfl⟩
  · exact absurd (congrArg Response.st (eq_of_respond_answers hr)) hst

/-! ### The checks of the lengths and of the context -/

/-- `SUBKEY` with a payload of the two lengths together checks the key length, then the prefix length. -/
theorem exec_subkey_payload {a b : Byte} {s : State} (hlen : s.DIN.length = a.toNat + b.toNat) :
    exec (.subkey a b) s =
      require (a == 32) .wrongKeyLength s
        (require (b == 16) .wrongNonceLength s (answer (subkey s.keyBytes (s.afterKey 16)) s)) := by
  rw [exec_subkey, execSubkey, withPayload_pass _ rfl hlen]

/-- `KS.INIT` with a payload of the two lengths together checks the key length, then the nonce length. -/
theorem exec_ksInit_lengths {a b : Byte} {s : State} (hlen : s.DIN.length = a.toNat + b.toNat) :
    exec (.ksInit a b) s =
      require (a == 32) .wrongKeyLength s
        (require (config.nonceLengths.contains b.toNat) .wrongNonceLength s
          (answer [] (s.initStream s.keyBytes (s.afterKey b.toNat) b.toNat))) := by
  rw [exec_ksInit, execKsInit, withPayload_pass _ rfl hlen]

/-- A byte that is none of the three nonce lengths is not in the list of them (R193). -/
theorem nonceLengths_contains_eq_false {b : Byte} (h16 : b ≠ 16) (h24 : b ≠ 24) (h32 : b ≠ 32) :
    config.nonceLengths.contains b.toNat = false := by
  rw [config_nonceLengths, Bool.eq_false_iff, ne_eq, List.contains_iff_mem]
  rw [← BitVec.toNat_ne_iff_ne] at h16 h24 h32
  simpa using ⟨h16, h24, h32⟩

/-- Settles O17: the check of the key length fails, or it passes and the check of the prefix or nonce length fails. -/
theorem lengthErrors : Obligations.LengthErrors := by
  intro a b s hlen
  refine ⟨fun ha => ?_, fun ha hb => ?_, fun ha h16 h24 h32 => ?_⟩
  · rw [exec_subkey_payload hlen, exec_ksInit_lengths hlen, beq_false_of_ne ha, require_false, require_false]
    exact ⟨rfl, rfl⟩
  · rw [exec_subkey_payload hlen, beq_iff_eq.mpr ha, require_true, beq_false_of_ne hb, require_false]
    rfl
  · rw [exec_ksInit_lengths hlen, beq_iff_eq.mpr ha, require_true, nonceLengths_contains_eq_false h16 h24 h32,
      require_false]
    rfl

/-- Settles O18: a command that needs a cipher context or a hash in progress is refused without it. -/
theorem commandsWithoutContextAreRefused : Obligations.CommandsWithoutContextAreRefused := by
  intro i s hwf hlen hmissing
  rcases hmissing with ⟨hk, hi⟩ | ⟨hh, hi⟩
  · exact NeedsCipher.exec_no_context hi hk hlen
  · exact NeedsHash.exec_no_hash hi hh hwf hlen

/-! ### The end of the counter -/

/-- The increment writes the counter plus 1 into the counter words, modulo 2^64 (R132). -/
theorem incrementCounter_eq_withCounter (x : Vector W32 16) :
    incrementCounter x = withCounter (counterOf x + 1) x := by
  rw [← counterOf_incrementCounter, ← withCounter_congr (sameButCounter_incrementCounter x), withCounter_counterOf]

/-- Settles O19: the table gives `CounterOverflow` to no command, and `KS.NEXT` in the FRESH state increments the counter,
which from 2^64 - 1 gives 0. -/
theorem counterOverflowIsNeverRaised : Obligations.CounterOverflowIsNeverRaised := by
  refine ⟨fun i s t r hexec hr hst => ?_, fun s hk hfresh hDIN hlast => ?_⟩
  · obtain ⟨e, he, hcode⟩ := exec_returns i s t r hexec hr
    cases e with
    | counterOverflow => exact he
    | ok | wrongKeyLength | wrongNonceLength | illegalCommand | noContext =>
      exact absurd (hcode.symm.trans hst) (by decide)
  · refine ⟨s.refill.advance.respond .ok [(keystreamBlock s.S)[0]], (keystreamBlock s.S)[0], ?_, rfl, ?_⟩
    · rw [exec_ksNext_ready hk hDIN, nextByte_fresh hfresh]
      rfl
    · calc (s.refill.advance.respond .ok [(keystreamBlock s.S)[0]]).S
          = incrementCounter s.S := rfl
        _ = withCounter (counterOf s.S + 1) s.S := incrementCounter_eq_withCounter s.S
        _ = withCounter 0 s.S := by rw [hlast]; rfl

end Sys2Proof.Machine
end

section
/-! SUPPORT. Reset, set-ups that give the same context, and recorded positions (70_reset_and_hazards.md rules R220, R223
and R227). -/

namespace Sys2Proof.Machine

/-! ### The reset event -/

theorem step_reset {s : State} {later : List HostMove} (h : s.host = .reset :: later) :
    step s = .next (s.resetBy later) := by
  simp only [step, fetch_reset h]

/-- Settles O14: `resetBy` writes the reset values, and keeps the later moves and the responses. -/
theorem resetEvent : Obligations.ResetEvent := by
  intro s later hhost
  exact ⟨s.resetBy later, step_reset hhost, resetBy_KSV later s, resetBy_SIPA later s, resetBy_host later s,
    resetBy_answers later s⟩

/-! ### Cipher contexts by the parts of the nonce -/

/-- The nonce bytes after the first 16, with zeros before them, are the tail (R135). -/
theorem tail_append {pre : List Byte} (hpre : pre.length = 16) (rest : List Byte) :
    tail (pre ++ rest) (16 + rest.length) = zeros (16 - rest.length) ++ rest := by
  rw [tail, Nat.add_sub_cancel_left, slice_append_right hpre, slice, List.drop_zero, List.take_length]

/-- `KS.INIT` of a key and a nonce in two parts: the first 16 nonce bytes enter the derived key, and the others are the end
of the last quadrant (R134, R135, R136). -/
theorem exec_ksInit_nonceParts {nlen : Byte} {key pre rest : List Byte} (hkey : key.length = 32)
    (hpre : pre.length = 16) (hrest : nlen.toNat = 16 + rest.length) (hn : nlen.toNat ∈ config.nonceLengths)
    (s : State) :
    exec (.ksInit 32 nlen) { s with DIN := key ++ pre ++ rest } =
      .next ((s.keySetup (wordsOf 8 (subkey key pre)) (zeros (16 - rest.length) ++ rest)).respond .ok []) := by
  have hnonce : slice (key ++ (pre ++ rest)) 32 (16 + rest.length) = pre ++ rest := by
    rw [slice, List.drop_left' hkey, ← hpre, ← List.length_append, List.take_length]
  rw [exec_ksInit_accepted hn (by simp only [List.length_append, hkey, hpre, hrest, Nat.add_assoc]), hrest, answer_eq,
    State.initStream, State.afterKey, State.keyBytes, List.append_assoc, hnonce, slice_append_left hkey,
    slice_append_left hpre, tail_append hpre]
  rfl

/-- The first 8 bytes of the last quadrant are what `KS.SETCTR` overwrites (R21, R137). -/
theorem layout_counterBytes (key : Vector W32 8) {c d : List Byte} (hc : c.length = 8) (hd : d.length = 8)
    (x : List Byte) :
    layout config.sigma key (wordsOf 4 (c ++ x)) =
      setCounterWords (le32 (slice c 0 4)) (le32 (slice c 4 4))
        (layout config.sigma key (wordsOf 4 (d ++ x))) := by
  have hcounter {b : List Byte} (hb : b.length = 8) {i : Nat} (hi : i < 2) :
      wordAt (b ++ x) i = le32 (slice b (4 * i) 4) := by
    rw [wordAt, slice, List.drop_append_of_le_length (by omega), List.take_append_of_le_length (by simp; omega), slice]
  have hsuffix {b : List Byte} (hb : b.length = 8) (i : Nat) : wordAt (b ++ x) (2 + i) = wordAt x i := by
    rw [wordAt, slice, Nat.mul_add, show 4 * 2 = b.length from hb.symm, List.drop_length_add_append, wordAt, slice]
  rw [layout_eq, layout_eq]
  simp only [getElem_wordsOf, hcounter hc (i := 0) (by decide), hcounter hc (i := 1) (by decide),
    show wordAt (c ++ x) 2 = _ from hsuffix hc 0, show wordAt (c ++ x) 3 = _ from hsuffix hc 1,
    show wordAt (d ++ x) 2 = _ from hsuffix hd 0, show wordAt (d ++ x) 3 = _ from hsuffix hd 1]
  rfl

/-- A counter written as 8 bytes at the start of the last quadrant is the block counter (R22). -/
theorem layout_st64 (key : Vector W32 8) (k : W64) (x : List Byte) :
    layout config.sigma key (wordsOf 4 (st64 k ++ x)) =
      withCounter k (layout config.sigma key (wordsOf 4 (zeros 8 ++ x))) := by
  rw [layout_counterBytes key (length_st64 k) (d := zeros 8) rfl x, le32_low_st64, le32_high_st64, withCounter]

/-- `j` increments add `j` to the counter (R132). -/
theorem iterate_incrementCounter (j : Nat) (x : Vector W32 16) :
    incrementCounter^[j] x = withCounter (counterOf x + BitVec.ofNat 64 j) x := by
  induction j with
  | zero => exact ((congrArg (withCounter · x) (BitVec.add_zero _)).trans (withCounter_counterOf x)).symm
  | succ j ih =>
    rw [Function.iterate_succ_apply', ih, incrementCounter_eq_withCounter, counterOf_withCounter,
      withCounter_withCounter, BitVec.add_assoc, BitVec.ofNat_add]
    rfl

/-- `KS.SETCTR` with a context and a payload of 8 bytes. -/
theorem exec_ksSetctr_operand {s : State} {c : List Byte} (hk : s.KSV = true) (hc : c.length = 8) :
    exec .ksSetctr { s with DIN := c } = .next ((s.setCounter c).respond .ok []) :=
  exec_ksSetctr_ready (s := { s with DIN := c }) hk hc

/-- Settles O29: the set-ups have the key and the first 16 nonce bytes in common; in (a) and (c) the last quadrants are the
same bytes, in (b) they differ in the 8 that `KS.SETCTR` writes, and with a counter in those 8 the cipher state is that of
counter zero with this counter. -/
theorem nonceIdentities : Obligations.NonceIdentities := by
  intro s key p c x k j hkey hp hc hx
  have hshort : exec (.ksInit 32 24) { s with DIN := key ++ p ++ x } =
      .next ((s.keySetup (wordsOf 8 (subkey key p)) (zeros 8 ++ x)).respond .ok []) := by
    rw [exec_ksInit_nonceParts hkey hp (by rw [hx]; rfl) (by decide), hx]
  have hlong (d : List Byte) (hd : d.length = 8) :
      exec (.ksInit 32 32) { s with DIN := key ++ p ++ d ++ x } =
        .next ((s.keySetup (wordsOf 8 (subkey key p)) (d ++ x)).respond .ok []) := by
    have hlen : (d ++ x).length = 16 := by rw [List.length_append, hd, hx]
    rw [List.append_assoc, exec_ksInit_nonceParts hkey hp (by rw [hlen]; rfl) (by decide), hlen]
    rfl
  refine ⟨⟨_, ?_, exec_ksInit_nonceParts hkey hp rfl (by decide) s⟩,
    ⟨_, _, _, hlong c hc, hshort, exec_ksSetctr_operand rfl hc, ⟨?_, rfl, rfl, rfl⟩, rfl, rfl, rfl⟩,
    ⟨_, hlong (zeros 8) rfl, hshort⟩, _, _, hlong (st64 k) rfl, hlong _ rfl, ?_⟩
  · rw [← List.append_nil (key ++ p)]
    exact exec_ksInit_nonceParts hkey hp rfl (by decide) s
  · exact layout_counterBytes _ hc (d := zeros 8) rfl x
  · simp only [respond_S, keySetup_S, layout_st64, iterate_incrementCounter, counterOf_withCounter,
      withCounter_withCounter]

/-! ### Positions taken up again -/

/-- The positions after `n` bytes are those of the state the bytes leave. -/
theorem takeBytes_position {n : Nat} {s u : State} {bs : List Byte} (h : takeBytes n s = some (bs, u)) (j : Nat) :
    byteAtPosition s (s.CUR.toNat + (n + j)) = byteAtPosition u (u.CUR.toNat + j) := by
  induction n generalizing s bs with
  | zero =>
    obtain ⟨-, rfl⟩ := Prod.mk.inj (Option.some.inj h)
    rw [Nat.zero_add]
  | succ n ih =>
    obtain ⟨b, s1, rest, hb, hrest, -⟩ := takeBytes_succ_eq_some h
    obtain ⟨-, hlater⟩ := nextByte_position hb
    rw [Nat.add_right_comm, hlater, ih hrest]

/-- States with the same bytes at the positions from their cursors on give the same bytes. -/
theorem takeBytes_agree {s u : State} (hs : s.CUR.toNat ≤ 64) (hu : u.CUR.toNat ≤ 64)
    (hpos : ∀ j, byteAtPosition u (u.CUR.toNat + j) = byteAtPosition s (s.CUR.toNat + j)) (n : Nat) :
    ∃ ks v w, takeBytes n u = some (ks, v) ∧ takeBytes n s = some (ks, w) := by
  obtain ⟨ks, w, htake, hlen⟩ := exists_takeBytes n hs
  obtain ⟨v, htake'⟩ := takeBytes_eq_of_positions hu hlen fun j hj => by
    rw [getElem?_takeBytes htake hj, hpos]
  exact ⟨ks, v, w, htake', htake⟩

/-- Taking bytes of the first block of a FRESH generator: its one refill is made, and the cursor counts the bytes. -/
theorem exists_takeBytes_fresh {n : Nat} (hn : n ≤ 64) {t : State} (hfresh : t.CUR = 64) :
    ∃ bs u, takeBytes n t = some (bs, u) ∧ u.CUR.toNat ≤ 64 ∧
      (0 < n → u.S = t.refill.S ∧ u.BUF = t.refill.BUF ∧ u.CUR.toNat = n ∧ u.KSV = t.KSV) := by
  have hcur := toNat_CUR_of_fresh hfresh
  cases n with
  | zero => exact ⟨[], t, rfl, hcur.le, fun h => absurd h (Nat.lt_irrefl 0)⟩
  | succ m =>
    obtain ⟨out, u, hx⟩ := exists_xorStream (zeros (m + 1)) hcur.le
    obtain ⟨bs, htake, -, -⟩ := takeBytes_of_xorStream hx
    obtain ⟨-, hcursor⟩ := xorStream_counter_and_cursor hx
    obtain ⟨-, hKSV, -⟩ := streamFrame_xorStream hx
    obtain ⟨b, t1, rest, hb, hrest, -⟩ := xorStream_cons_eq_some hx
    rw [nextByte_fresh hfresh] at hb
    obtain ⟨-, rfl⟩ := Prod.mk.inj (Option.some.inj hb)
    have hone : t.refill.advance.CUR.toNat = 1 := rfl
    obtain ⟨hS, hBUF⟩ := xorStream_within_block (by rw [List.length_replicate, hone]; omega) hrest
    simp only [zeros, List.length_replicate] at htake hcursor
    rw [hcur, cursorAfter_succ_fresh, cursorAfter] at hcursor
    have hcount : u.CUR.toNat = m + 1 := by
      split at hcursor <;> omega
    exact ⟨bs, u, htake, hcount.trans_le hn, fun _ => ⟨hS, hBUF, hcount, hKSV⟩⟩

theorem counterBefore_add_one (s : State) : counterBefore s + 1 = counterOf s.S := by
  rw [counterBefore, BitVec.add_assoc]
  exact BitVec.add_zero _

/-- From `t`, discarding as many bytes as the recorded offset of `s` takes up the position of `s` again: the unit K items
that matter there are back, and the same bytes come (R227). -/
def TakesUpPosition (s t : State) : Prop :=
  ∃ bs u, takeBytes (recordedOffset s) t = some (bs, u) ∧
    (0 < s.CUR.toNat → u.S = s.S ∧ u.CUR = s.CUR ∧ u.KSV = s.KSV ∧ (s.CUR.toNat < 64 → u.BUF = s.BUF)) ∧
    ∀ n : Nat, ∃ ks v w, takeBytes n u = some (ks, v) ∧ takeBytes n s = some (ks, w)

/-- The position of a FRESH state: nothing is discarded, and the blocks to come depend on the cipher state alone. -/
theorem takesUpPosition_fresh {s t : State} (hs : s.CUR = 64) (ht : t.CUR = 64) (hKSV : t.KSV = s.KSV)
    (hS : t.S = withCounter (recordedCounter s) s.S) : TakesUpPosition s t := by
  have hcur := toNat_CUR_of_fresh hs
  rw [recordedCounter_fresh hs, withCounter_counterOf] at hS
  refine ⟨[], t, by rw [recordedOffset_fresh hs, takeBytes_zero],
    fun _ => ⟨hS, ht.trans hs.symm, hKSV, fun hserving => by omega⟩,
    takeBytes_agree hcur.le (toNat_CUR_of_fresh ht).le fun j => ?_⟩
  rw [toNat_CUR_of_fresh ht, hcur, byteAtPosition_add, byteAtPosition_add, hS]

/-- The position of a SERVING state: the refill at the recorded counter makes its block and leaves its cipher state, and
the discarded bytes bring the cursor to its place. -/
theorem takesUpPosition_serving {s t : State} (hs : s.CUR.toNat < 64) (hahead : CounterAhead s) (ht : t.CUR = 64)
    (hKSV : t.KSV = s.KSV) (hS : t.S = withCounter (recordedCounter s) s.S) : TakesUpPosition s t := by
  rw [recordedCounter_serving hs] at hS
  have hrefillS : t.refill.S = s.S := by
    rw [refill_S, incrementCounter_eq_withCounter, hS, counterOf_withCounter, counterBefore_add_one,
      withCounter_withCounter, withCounter_counterOf]
  have hrefillBUF : t.refill.BUF = s.BUF := by
    rw [refill_BUF, hS, hahead hs]
  have hrefill (j : Nat) : byteAtPosition t (64 + j) = byteAtPosition s j := by
    rw [← byteAtPosition_refill, byteAtPosition, hrefillS, hrefillBUF, byteAtPosition]
  obtain ⟨bs, u, htake, hucur, hitems⟩ := exists_takeBytes_fresh hs.le ht
  refine ⟨bs, u, by rw [recordedOffset_serving hs, htake], fun hpos => ?_,
    takeBytes_agree hs.le hucur fun j => ?_⟩
  · obtain ⟨huS, huBUF, huCUR, huKSV⟩ := hitems hpos
    exact ⟨huS.trans hrefillS, BitVec.eq_of_toNat_eq huCUR, huKSV.trans hKSV, fun _ => huBUF.trans hrefillBUF⟩
  · rw [← takeBytes_position htake, toNat_CUR_of_fresh ht, hrefill]

/-- Settles O44: `KS.SETCTR` gives the FRESH context the recorded counter, and the position is that of a SERVING state or of
a FRESH one. -/
theorem recordedPositionCanBeResumed : Obligations.RecordedPositionCanBeResumed := by
  intro s r hk hcur hahead hkr hfresh hr
  let t := (r.setCounter (st64 (recordedCounter s))).respond .ok []
  have hexec : exec .ksSetctr { r with DIN := st64 (recordedCounter s) } = .next t := exec_ksSetctr_operand hkr rfl
  have hS : t.S = withCounter (recordedCounter s) s.S := (setCounter_st64_S _ r).trans (withCounter_congr hr _)
  have hKSV : t.KSV = s.KSV := hkr.trans hk.symm
  have htakesUp : TakesUpPosition s t := by
    rcases Nat.lt_or_eq_of_le hcur with hserving | hend
    · exact takesUpPosition_serving hserving hahead hfresh hKSV hS
    · exact takesUpPosition_fresh (BitVec.eq_of_toNat_eq hend) hfresh hKSV hS
  obtain ⟨bs, u, hrest⟩ := htakesUp
  exact ⟨t, bs, u, hexec, hrest⟩

end Sys2Proof.Machine
end

section
/-! SUPPORT. Two choices of the model where the spec prescribes nothing: a step with no move to make (log entry 3), and a
byte wanted where the buffer has none (log entry 4). -/

namespace Sys2Proof.Machine

/-! ### Waiting -/

theorem step_idle {s : State} (h : s.host = []) : step s = .next s := by
  simp only [step, fetch_idle h]

/-- Settles O12: with no move to fetch the step is the waiting one. -/
theorem idleCoreWaits : Obligations.IdleCoreWaits :=
  fun _ => step_idle

/-! ### A cursor beyond the buffer -/

/-- From a cursor beyond the buffer no stream of at least one byte is made: its first byte is missing. -/
theorem xorStream_none {data : List Byte} {s : State} (hdata : data ≠ []) (hbeyond : 64 < s.CUR.toNat) :
    xorStream data s = none := by
  cases data with
  | nil => exact absurd rfl hdata
  | cons d rest => rw [xorStream_cons, nextByte_none hbeyond]

/-- Settles O37: the commands pass their checks, and the byte that `KS.NEXT` takes, or `KS.CRYPT` first, does not exist. -/
theorem byteBeyondTheBufferStops : Obligations.ByteBeyondTheBufferStops := by
  intro s hk hbeyond
  refine ⟨fun hDIN => ?_, fun n hn hlen => ?_⟩
  · rw [exec_ksNext_ready hk hDIN, nextByte_none hbeyond]
    rfl
  · have hdata : s.DIN ≠ [] := by
      intro hnil
      rw [hnil] at hlen
      exact hn (BitVec.eq_of_toNat_eq hlen.symm)
    rw [exec_ksCrypt_ready hk hlen, xorStream_none hdata hbeyond]
    rfl

end Sys2Proof.Machine
end
